-- ==== Sys2Proof/Word.lean ====
section
/-! DEFINITION. The units SPF moves (00_scope.md R11, R12): bytes, the 16-bit length and checksum fields,
the 32-bit device address, and byte sequences (oldest byte first, first on the wire). -/

namespace Sys2Proof

/-- A byte, R11: an unsigned integer in 0..255. -/
abbrev Byte := BitVec 8

/-- A 16-bit field of a frame: length (R72) or checksum (R73). -/
abbrev Half := BitVec 16

/-- The 32-bit device address (R23). -/
abbrev Word := BitVec 32

/-- A byte sequence, R12. -/
abbrev Bytes := List Byte

end Sys2Proof
end

