-- ==== Sys2Proof/Config.lean ====
section
/-! DEFINITION. The implementation parameters of 00_scope.md R9 (`MAXPAY`, `RXCAP`, `TXCAP`). They are fixed for
one machine; `State` carries them in a field that no step writes, so that a statement about every state is a
statement about every choice of them. The constraints R9 puts on them are `Config.ok` (Machine/Operands.lean). -/

namespace Sys2Proof

/-- A capacity in bytes, or `inf` (R9). -/
inductive Cap where
  /-- no limit: DOC0's "unbounded growable byte buffer" -/
  | inf
  /-- at most `n` bytes -/
  | bytes (n : Nat)
deriving DecidableEq, Repr

/-- The named parameters of R9. -/
structure Config where
  /-- `MAXPAY`, the largest payload `ENC.*` accepts and the parser can deliver -/
  maxPay : Nat
  /-- `RXCAP`, the capacity of the receive accumulator -/
  rxCap : Cap
  /-- `TXCAP`, the capacity of the transmit queue -/
  txCap : Cap
deriving DecidableEq, Repr

/-- The defaults R9 recommends: `MAXPAY = 65533`, `RXCAP = TXCAP = inf`. -/
def Config.recommended : Config :=
  { maxPay := 65533, rxCap := .inf, txCap := .inf }

end Sys2Proof
end

