-- ==== Sys2Proof/Syntax.lean ====
section
/-! DEFINITION. The operations of SPF as syntax: one constructor of `Instr` per row of spec/opcode_table.json
(00_scope.md R3: an "instruction" is one operation of SPF, or a wire frame the validator examines). -/

namespace Sys2Proof

/-- A packet id seen as an enumeration (R16 "Kind", R74). -/
inductive Kind where
  /-- Command, packet id `0x01` -/
  | cmd
  /-- DataChunk, packet id `0x02` -/
  | dat
  /-- Acknowledge, packet id `0x07` -/
  | ack
  /-- EndOfData, packet id `0x08` -/
  | fin
deriving DecidableEq, Repr

/-- Every row of the opcode table. The four `frame*` forms (R70, R152 to R155) carry the fields of a wire frame
that are not fixed by the row: the address field, the length field, and the `len` bytes that follow the 9-byte
head (the payload and, in the last two of them, the checksum: R72 counts both in `len`). -/
inductive Instr where
  /-- `FRAME.CMD` (R152): a received Command frame -/
  | frameCmd (addr : Word) (len : Half) (body : Bytes)
  /-- `FRAME.DAT` (R153): a received DataChunk frame -/
  | frameDat (addr : Word) (len : Half) (body : Bytes)
  /-- `FRAME.ACK` (R154): a received Acknowledge frame -/
  | frameAck (addr : Word) (len : Half) (body : Bytes)
  /-- `FRAME.END` (R155): a received EndOfData frame -/
  | frameEnd (addr : Word) (len : Half) (body : Bytes)
  /-- `RDSTAT`, op `0x0` (R169) -/
  | rdstat
  /-- `RDADDR`, op `0x1` (R166) -/
  | rdaddr
  /-- `WRADDR a`, op `0x2` (R165) -/
  | wraddr (a : Word)
  /-- `RDEXP`, op `0x3` (R168) -/
  | rdexp
  /-- `WREXP m`, op `0x4` (R167) -/
  | wrexp (m : BitVec 4)
  /-- `CSUM k, p`, op `0x5` (R104) -/
  | csum (k : Kind) (p : Bytes)
  /-- `TAKE`, op `0x6` (R146) -/
  | take
  /-- `FLUSH`, op `0x7` (R148) -/
  | flush
  /-- `ENC.CMD p`, op `0x8` (R117) -/
  | encCmd (p : Bytes)
  /-- `ENC.DAT p`, op `0x9` (R118) -/
  | encDat (p : Bytes)
  /-- `ENC.ACK p`, op `0xA` (R119) -/
  | encAck (p : Bytes)
  /-- `ENC.END p`, op `0xB` (R120) -/
  | encEnd (p : Bytes)
  /-- reserved operation number `0xC` (R171) -/
  | reservedC
  /-- reserved operation number `0xD` (R171) -/
  | reservedD
  /-- reserved operation number `0xE` (R171) -/
  | reservedE
  /-- `RESET`, op `0xF` (R170) -/
  | reset
  /-- `RXB b` (R135), step of agent TIN -/
  | rxb (b : Byte)
  /-- `TXB` (R121), step of agent TOUT -/
  | txb
  /-- `PARSE` (R138), step of agent VAL -/
  | parse
deriving DecidableEq, Repr

end Sys2Proof
end

