-- ==== Sys2Proof/Machine/Ports.lean ====
section
/-! DEFINITION. What stands on SPF's ports (10_state.md R34) and which agent moves (00_scope.md R15), as plain
data. SPF has no program counter and fetches no program (R21): the "word" a step runs is what the moving agent puts
on its port, or, for the validator, the bytes at the front of the receive accumulator. -/

namespace Sys2Proof

/-- One transaction on the host port (R34, R84): the 4-bit operation number and the argument lanes. An operation
reads the lanes the R84 table lists for it and ignores the others; how lanes are carried is left to the platform
(R84), so this record is the model's own form of them (DESIGN CHOICE, log entry 3). -/
structure HostReq where
  /-- the operation number -/
  op : BitVec 4
  /-- argument `a` of `WRADDR` -/
  a : Word
  /-- argument `m` of `WREXP` -/
  m : BitVec 4
  /-- argument `k` of `CSUM`, "carried as the same two bits" (R84) -/
  k : BitVec 2
  /-- argument `p` of `CSUM` and `ENC.*` -/
  p : Bytes
deriving DecidableEq, Repr

/-- What a step decodes: the moving agent's word. -/
inductive PortWord where
  /-- HOST: a transaction on the host port -/
  | op (q : HostReq)
  /-- TIN: a byte on `rx_byte` with `rx_valid` (the only bits of `RXB`, R85) -/
  | rxByte (b : Byte)
  /-- TOUT: `tx_ready`, the transport takes a byte (no bits, R85) -/
  | txTake
  /-- VAL: the bytes of the receive accumulator, from `rx[0]` on -/
  | frame (bs : Bytes)
deriving DecidableEq, Repr

/-- Whose turn it is: one of the four agents of R15, or the environment at the `rst` port (R34). The schedule is the
environment's (R31); R57 item 5 admits every order. -/
inductive Turn where
  /-- HOST issues the transaction `q` -/
  | host (q : HostReq)
  /-- TIN offers the first byte it holds -/
  | tin
  /-- TOUT is ready to take a byte -/
  | tout
  /-- VAL is scheduled (R144) -/
  | val
  /-- a request rises on the `rst` port, between two agents' steps. The spec leaves open when one rises, and this turn
  is the model's own form of it (DESIGN CHOICE, log entry 5): the request stands in `State.rst` after this turn, and the
  step after it serves it (R193 d). -/
  | rst
deriving DecidableEq, Repr

end Sys2Proof
end

