-- ==== Sys2Proof/Machine/Operands.lean ====
section
/-! DEFINITION. Every operand form of SPF: the big-endian helpers (R13), reads at frame offsets (R14, R29), kinds
and packet ids (R74), the accept test of the EXPECT mask (R74, R137), the fixed places of a frame head (R8, R70), and
the capacity tests (R9). -/

namespace Sys2Proof

/-- First header byte (R8 `HDR`). -/
def hdr0 : Byte := 0xEF

/-- Second header byte (R8 `HDR`). -/
def hdr1 : Byte := 0x01

/-- `HEAD_LEN` (R8): prefix 6, packet id 1, length 2. -/
def headLen : Nat := 9

/-- `OVERHEAD` (R8): `HEAD_LEN` and the checksum. -/
def overhead : Nat := 11

/-- `PARSE_FLOOR` (R8, R140): the stated literal 12 (90_conflicts.md C1). -/
def parseFloor : Nat := 12

/-- `be16(v) = [v[15:8], v[7:0]]` (R13). -/
def be16 (v : Half) : Bytes :=
  [v.extractLsb' 8 8, v.extractLsb' 0 8]

/-- `be32(v) = [v[31:24], v[23:16], v[15:8], v[7:0]]` (R13). -/
def be32 (v : Word) : Bytes :=
  [v.extractLsb' 24 8, v.extractLsb' 16 8, v.extractLsb' 8 8, v.extractLsb' 0 8]

/-- `u16(hi, lo) = hi * 256 + lo` (R13). -/
def u16 (hi lo : Byte) : Half :=
  hi ++ lo

/-- `u32(b0, b1, b2, b3)` (R13), `b0` most significant. -/
def u32 (b0 b1 b2 b3 : Byte) : Word :=
  b0 ++ b1 ++ b2 ++ b3

/-- `s[i]` (R12). The rules read only offsets that exist (R136); beyond the end this total function reads 0. -/
def byteAt (s : Bytes) (i : Nat) : Byte :=
  s.getD i 0

/-- `s[i..j)` (R12). -/
def slice (s : Bytes) (i j : Nat) : Bytes :=
  (s.drop i).take (j - i)

/-- `PID(kind)` (R74). -/
def Kind.pid : Kind → Byte
  | .cmd => 0x01
  | .dat => 0x02
  | .ack => 0x07
  | .fin => 0x08

/-- The kind of a packet id byte; none for the 252 bytes outside the closed set (R74, R78). -/
def Kind.ofPid (b : Byte) : Option Kind :=
  if b = 0x01 then some .cmd
  else if b = 0x02 then some .dat
  else if b = 0x07 then some .ack
  else if b = 0x08 then some .fin
  else none

/-- The kind's bit of `EXPECT` (R24, R74). -/
def Kind.bit : Kind → Nat
  | .cmd => 0
  | .dat => 1
  | .ack => 2
  | .fin => 3

/-- The two bits that select a kind (R84: `00 CMD`, `01 DAT`, `10 ACK`, `11 END`). -/
def Kind.code : Kind → BitVec 2
  | .cmd => 0b00
  | .dat => 0b01
  | .ack => 0b10
  | .fin => 0b11

/-- The kind two bits select (R84). -/
def Kind.ofCode (c : BitVec 2) : Kind :=
  if c = 0b00 then .cmd
  else if c = 0b01 then .dat
  else if c = 0b10 then .ack
  else .fin

/-- `accepts(mask, b)` (R74): `b` is the byte of some row and the row's bit of `mask` is 1. -/
def accepts (mask : BitVec 4) (b : Byte) : Bool :=
  match Kind.ofPid b with
  | some k => mask.getLsbD k.bit
  | none => false

/-- The 6-byte prefix `HDR ++ be32(a)` (R8, R137). -/
def framePrefix (a : Word) : Bytes :=
  [hdr0, hdr1] ++ be32 a

/-- The 9-byte head (R70): header, address, packet id, length. -/
def frameHead (pid : Byte) (a : Word) (len : Half) : Bytes :=
  framePrefix a ++ [pid] ++ be16 len

/-- `n` bytes do not exceed the capacity (R9). -/
def Cap.holds (c : Cap) (n : Nat) : Bool :=
  match c with
  | .inf => true
  | .bytes m => decide (n ≤ m)

/-- The constraints of R9 (binding: 90_conflicts.md C6): `MAXPAY <= 65533`, `RXCAP >= 12`,
`RXCAP >= MAXPAY + 11`, `TXCAP >= MAXPAY + 11`. -/
def Config.ok (c : Config) : Bool :=
  decide (c.maxPay ≤ 65533) && c.rxCap.holds parseFloor && c.rxCap.holds (c.maxPay + overhead)
    && c.txCap.holds (c.maxPay + overhead)

end Sys2Proof
end

