-- ==== Sys2Proof/WellFormed.lean ====
section
/-! DEFINITION. Which terms of `Instr` are words the hardware can hold. Every operand of a host operation is legal
(R165 "every value of `a` legal", R167 "all 16 values legal"; a payload argument above `MAXPAY` is an operation
that is refused, R116, not an ill-formed one). A wire frame is well-formed when exactly `len` bytes follow its head
(R72: the whole frame is `len + 9` bytes). -/

namespace Sys2Proof

/-- R72: the bytes after the 9-byte head are as many as the length field says. -/
def bodyFits (len : Half) (body : Bytes) : Bool :=
  body.length == len.toNat

/-- Well-formedness of an operation. -/
def Instr.wf : Instr → Bool
  | .frameCmd _ len body => bodyFits len body
  | .frameDat _ len body => bodyFits len body
  | .frameAck _ len body => bodyFits len body
  | .frameEnd _ len body => bodyFits len body
  | .rdstat => true
  | .rdaddr => true
  | .wraddr _ => true
  | .rdexp => true
  | .wrexp _ => true
  | .csum _ _ => true
  | .take => true
  | .flush => true
  | .encCmd _ => true
  | .encDat _ => true
  | .encAck _ => true
  | .encEnd _ => true
  | .reservedC => true
  | .reservedD => true
  | .reservedE => true
  | .reset => true
  | .rxb _ => true
  | .txb => true
  | .parse => true

end Sys2Proof
end

