-- ==== Sys2Proof/Decode.lean ====
section
/-! DEFINITION. Decoding what the moving agent puts on its port (30_encoding.md R70 to R85) into an `Instr`, and the
encoder written from the same tables. The frame decoder rejects by name what is no row of the opcode table
(R78, 95_test_vectors.md 2.3); the validator's general step `PARSE` is then what runs on those bytes. -/

namespace Sys2Proof

/-- Why bytes are no frame row of the opcode table. -/
inductive Reject where
  /-- fewer than the 9 bytes of a head (R70) -/
  | shortHead
  /-- the first two bytes are not `0xEF 0x01` (R70, R78) -/
  | badHeader
  /-- the packet id is none of the four (R74, R78) -/
  | badPid (pid : Byte)
  /-- fewer bytes after the head than the length field announces (R76) -/
  | shortBody
deriving DecidableEq, Repr

/-- The frame row of a kind (R152 to R155). -/
def frameInstr (k : Kind) (addr : Word) (len : Half) (body : Bytes) : Instr :=
  match k with
  | .cmd => .frameCmd addr len body
  | .dat => .frameDat addr len body
  | .ack => .frameAck addr len body
  | .fin => .frameEnd addr len body

/-- The encode operation of a kind (R74, R84 `0b10kk`). -/
def encInstr (k : Kind) (p : Bytes) : Instr :=
  match k with
  | .cmd => .encCmd p
  | .dat => .encDat p
  | .ack => .encAck p
  | .fin => .encEnd p

/-- The length field of the frame assumed to start at `bs[0]` (R136 `L`). -/
def lenAt (bs : Bytes) : Half :=
  u16 (byteAt bs 7) (byteAt bs 8)

/-- The address field of the frame assumed to start at `bs[0]` (R71). -/
def addrAt (bs : Bytes) : Word :=
  u32 (byteAt bs 2) (byteAt bs 3) (byteAt bs 4) (byteAt bs 5)

/-- The frame that starts at `bs[0]` (R70, R76); bytes behind it are not looked at. -/
def decodeFrame (bs : Bytes) : Except Reject Instr :=
  if bs.length < headLen then .error .shortHead
  else if byteAt bs 0 ≠ hdr0 ∨ byteAt bs 1 ≠ hdr1 then .error .badHeader
  else
    match Kind.ofPid (byteAt bs 6) with
    | none => .error (.badPid (byteAt bs 6))
    | some k =>
      if bs.length < headLen + (lenAt bs).toNat then .error .shortBody
      else .ok (frameInstr k (addrAt bs) (lenAt bs) ((bs.drop headLen).take (lenAt bs).toNat))

/-- A host-port transaction by its operation number (R84; the last arm is `0xF`, the only number left). -/
def decodeOp (q : HostReq) : Instr :=
  match q.op.toNat with
  | 0x0 => .rdstat
  | 0x1 => .rdaddr
  | 0x2 => .wraddr q.a
  | 0x3 => .rdexp
  | 0x4 => .wrexp q.m
  | 0x5 => .csum (Kind.ofCode q.k) q.p
  | 0x6 => .take
  | 0x7 => .flush
  | 0x8 => .encCmd q.p
  | 0x9 => .encDat q.p
  | 0xA => .encAck q.p
  | 0xB => .encEnd q.p
  | 0xC => .reservedC
  | 0xD => .reservedD
  | 0xE => .reservedE
  | _ => .reset

/-- The instruction the moving agent's word stands for. Total: an accumulator whose front is no frame row is what
`PARSE` examines (R85, R138). -/
def decode : PortWord → Instr
  | .op q => decodeOp q
  | .rxByte b => .rxb b
  | .txTake => .txb
  | .frame bs =>
    match decodeFrame bs with
    | .ok i => i
    | .error _ => .parse

/-- A host-port transaction with the given number and empty lanes. -/
def opWord (n : BitVec 4) : HostReq :=
  { op := n, a := 0, m := 0, k := 0, p := [] }

/-- The bytes of a frame with the given fields (R70): the head, then the `len` bytes behind it. -/
def frameBytes (k : Kind) (addr : Word) (len : Half) (body : Bytes) : Bytes :=
  frameHead k.pid addr len ++ body

/-- The word of an operation (R70, R84, R85). `PARSE` has no bits: its word is an accumulator with no frame in it. -/
def encode : Instr → PortWord
  | .frameCmd addr len body => .frame (frameBytes .cmd addr len body)
  | .frameDat addr len body => .frame (frameBytes .dat addr len body)
  | .frameAck addr len body => .frame (frameBytes .ack addr len body)
  | .frameEnd addr len body => .frame (frameBytes .fin addr len body)
  | .rdstat => .op (opWord 0x0)
  | .rdaddr => .op (opWord 0x1)
  | .wraddr a => .op { opWord 0x2 with a := a }
  | .rdexp => .op (opWord 0x3)
  | .wrexp m => .op { opWord 0x4 with m := m }
  | .csum k p => .op { opWord 0x5 with k := k.code, p := p }
  | .take => .op (opWord 0x6)
  | .flush => .op (opWord 0x7)
  | .encCmd p => .op { opWord 0x8 with p := p }
  | .encDat p => .op { opWord 0x9 with p := p }
  | .encAck p => .op { opWord 0xA with p := p }
  | .encEnd p => .op { opWord 0xB with p := p }
  | .reservedC => .op (opWord 0xC)
  | .reservedD => .op (opWord 0xD)
  | .reservedE => .op (opWord 0xE)
  | .reset => .op (opWord 0xF)
  | .rxb b => .rxByte b
  | .txb => .txTake
  | .parse => .frame []

/-- The nine bytes of a 72-bit head number: bit 71 is the most significant bit of the byte at offset 0 (R70). -/
def headOfNumber (v : BitVec 72) : Bytes :=
  [v.extractLsb' 64 8, v.extractLsb' 56 8, v.extractLsb' 48 8, v.extractLsb' 40 8, v.extractLsb' 32 8,
    v.extractLsb' 24 8, v.extractLsb' 16 8, v.extractLsb' 8 8, v.extractLsb' 0 8]

/-- A word of the opcode table on its port, the operands the table gives no bits being zero (log entry 6). 72 bits:
a frame head (R70), followed by as many zero bytes as its length field announces. 8 bits (or 4): a host operation
number (R84) when its upper bits are zero, else a byte on `rx_byte` (R85). No bits: nothing stands on any port, and
the step SPF can take by itself is the validator's. -/
def tableWord (nbits w : Nat) : Option PortWord :=
  if nbits = 72 then
    let head := headOfNumber (BitVec.ofNat 72 w)
    some (.frame (head ++ List.replicate (lenAt head).toNat 0))
  else if nbits = 8 ∨ nbits = 4 then
    if w < 16 then some (.op (opWord (BitVec.ofNat 4 w)))
    else if nbits = 8 then some (.rxByte (BitVec.ofNat 8 w))
    else none
  else if nbits = 0 then some (.frame [])
  else none

/-- The instruction the decoder reads from a word of the opcode table; none where the frame decoder rejects. -/
def decodeTableWord (nbits w : Nat) : Option Instr :=
  match tableWord nbits w with
  | none => none
  | some (.frame []) => some .parse
  | some (.frame (b :: bs)) =>
    match decodeFrame (b :: bs) with
    | .ok i => some i
    | .error _ => none
  | some pw => some (decode pw)

end Sys2Proof
end

