-- ==== Sys2Proof/Machine/Checksum.lean ====
section
/-! DEFINITION. The checksum generator's function (40_checksum.md R100) and the frame it completes
(41_encoder.md R115). Both are pure: SPF keeps no accumulator between operations (R22). -/

namespace Sys2Proof

/-- `sum(s)` (R12): the mathematical sum of the bytes as unsigned integers. -/
def sumBytes : Bytes → Nat
  | [] => 0
  | b :: bs => b.toNat + sumBytes bs

/-- `csum16(pid, L, p) = (pid + L[15:8] + L[7:0] + sum(p)) mod 65536` (R100). -/
def csum16 (pid : Byte) (len : Half) (p : Bytes) : Half :=
  BitVec.ofNat 16 (pid.toNat + (len.extractLsb' 8 8).toNat + (len.extractLsb' 0 8).toNat + sumBytes p)

/-- The length field of a frame with payload `p`, `len(p) + 2` (R72); it fits 16 bits for `len(p) <= 65533`. -/
def lenField (p : Bytes) : Half :=
  BitVec.ofNat 16 (p.length + 2)

/-- `encode(pid, a, p)` (R115). -/
def encodeFrame (pid : Byte) (a : Word) (p : Bytes) : Bytes :=
  frameHead pid a (lenField p) ++ p ++ be16 (csum16 pid (lenField p) p)

end Sys2Proof
end

