-- ==== Sys2Proof/Machine/State.lean ====
section
/-! DEFINITION. The state of SPF (10_state.md R23 to R27), what stands on its ports (R34), its parameters (R9), and
`State.reset` (R32). Plain data throughout. SPF has no register file (R20), no program counter (R21), no accumulator
(R22) and no addressed memory (R29), so there is none here. -/

namespace Sys2Proof.Machine

/-- `status` of a Result (R27, R181). Status `3` never occurs (R27, 93 U13), so it has no constructor. -/
inductive Status where
  /-- `0`: the frame was validated and consumed -/
  | ok
  /-- `1`: DOC0's `CorruptedPacket` -/
  | corrupted
  /-- `2`: DOC0's `ChecksumMismatch` -/
  | checksum
deriving DecidableEq, Repr

/-- The Result record of R27. -/
structure Result where
  /-- what the validator found -/
  status : Status
  /-- the cause bits: bit 0 `PREFIX`, bit 1 `PID`, bit 2 `LEN` -/
  cause : BitVec 3
  /-- the byte at frame offset 6 -/
  pid : Byte
  /-- the length field at frame offsets 7 and 8 -/
  len : Half
  /-- the payload of an `OK` frame, else empty -/
  payload : Bytes
deriving DecidableEq, Repr

/-- Why a host operation was refused (60_exceptions.md R186). This is the hardware's own reply to the host, after
which the machine goes on; it is not the model's `Refusal`. -/
inductive Reason where
  /-- `1`: `ADDR` is unwritten -/
  | unconfigured
  /-- `2`: `len(p) > MAXPAY` -/
  | payloadTooLong
  /-- `3`: the frame does not fit in the transmit queue -/
  | txFull
  /-- `4`: `res` is none -/
  | noResult
  /-- `5`: a reserved operation number -/
  | badOp
deriving DecidableEq, Repr

/-- The `STATUS` record (R28). -/
structure StatusView where
  /-- `RVALID`: a Result is pending -/
  rvalid : Bool
  /-- `CFGD`: `ADDR` is written -/
  cfgd : Bool
  /-- `RXLEN` -/
  rxlen : Nat
  /-- `TXLEN` -/
  txlen : Nat
deriving DecidableEq, Repr

/-- A reply on the host port (R34, the reply column of R84). -/
inductive Reply where
  /-- carried out, no value (reply "none") -/
  | done
  /-- a 32-bit value (`RDADDR`) -/
  | addr (v : Word)
  /-- a 4-bit mask (`RDEXP`) -/
  | mask (m : BitVec 4)
  /-- a 16-bit value (`CSUM`) -/
  | sum (v : Half)
  /-- the `STATUS` record (`RDSTAT`) -/
  | status (v : StatusView)
  /-- a Result record (`TAKE`) -/
  | result (r : Result)
  /-- refused, with the reason (R186) -/
  | refused (why : Reason)
deriving DecidableEq, Repr

/-- The machine's state. The first five fields are the whole architectural state of R23 to R27; `cfg` holds the
parameters of R9; the rest is what stands on the ports of R34 and the environment's schedule (R15, R31), which the
spec does not give as SPF's state and which reset leaves alone (log entries 1, 2, 4, 5). -/
structure State where
  /-- parameters `MAXPAY`, `RXCAP`, `TXCAP` (R9); no step writes them -/
  cfg : Config
  /-- `ADDR` (R23): unwritten, or a 32-bit value -/
  addr : Option Word
  /-- `EXPECT` (R24): bit 0 CMD, bit 1 DAT, bit 2 ACK, bit 3 END -/
  expect : BitVec 4
  /-- `rx` (R25): the receive accumulator, oldest byte first -/
  rx : Bytes
  /-- `txq` (R26): the transmit queue, oldest byte first -/
  txq : Bytes
  /-- `res` (R27): none, or one Result -/
  res : Option Result
  /-- host port (R34): the reply to the latest host operation; none before the first -/
  reply : Option Reply
  /-- `rx_byte` channel (R34): bytes the transport holds and has not yet handed over, oldest first; no step adds to
  them, so all that a run will be offered stands here at its start (log entry 4) -/
  rxHeld : Bytes
  /-- `tx_byte` channel (R34): the bytes `TXB` has yielded, oldest first -/
  txOut : Bytes
  /-- `rst` port (R34): a reset request not yet served; raised by the turn `Turn.rst` only (log entry 5) -/
  rst : Bool
  /-- the turns still to come, next one first (R15) -/
  sched : List Turn
deriving DecidableEq, Repr

/-- Faults: none. The spec gives SPF no behaviour that stops the machine: a framing error is a Result (R181), a host
operation that cannot be carried out is answered with a reason (R186), and a step that is not enabled is no step
(R14, R200). The type has no constructor, so that no meaning can end in a fault (safe). -/
inductive Fault
deriving DecidableEq, Repr

/-- Refusals of the model (not R186's refusals, which are replies). -/
inductive Refusal where
  /-- raised by `exec` for an instruction that has no meaning yet; no arm raises it now (safe) -/
  | notModelled (mnemonic : String)
deriving DecidableEq, Repr

/-- The state right after reset: the five elements at the values of R32 (`70_reset_and_hazards.md` R205), the
parameters at the defaults R9 recommends, and nothing yet on any port (log entries 1, 2, 4, 5). -/
def State.reset : State :=
  { cfg := Config.recommended
    addr := none
    expect := 0b0000
    rx := []
    txq := []
    res := none
    reply := none
    rxHeld := []
    txOut := []
    rst := false
    sched := [] }

end Sys2Proof.Machine
end

