-- ==== Sys2Proof/Machine/Flags.lean ====
section
/-! DEFINITION. Every flag and derived signal: the STATUS view (R28), the port signals (R34), the codes of Results and
reasons (R181, R186), the tests of the validator (R136 to R138) and its cause bits (R27). -/

namespace Sys2Proof.Machine

/-- The number of a Result status (R181). -/
def Status.code : Status → BitVec 2
  | .ok => 0
  | .corrupted => 1
  | .checksum => 2

/-- The number of a refusal reason (R186; `0` means "not refused"). -/
def Reason.code : Reason → Nat
  | .unconfigured => 1
  | .payloadTooLong => 2
  | .txFull => 3
  | .noResult => 4
  | .badOp => 5

/-- The code a reply carries: `0` unless it is a refusal (R186). -/
def Reply.code : Reply → Nat
  | .refused why => why.code
  | _ => 0

/-- `STATUS` (R28), a view that stores nothing. -/
def State.statusView (s : State) : StatusView :=
  { rvalid := s.res.isSome, cfgd := s.addr.isSome, rxlen := s.rx.length, txlen := s.txq.length }

/-- `irq_res`, a level `= STATUS.RVALID` (R34, R190). -/
def State.irqRes (s : State) : Bool :=
  s.statusView.rvalid

/-- `rx_ready = 1` iff `len(rx) < RXCAP` (R34). -/
def State.rxReady (s : State) : Bool :=
  s.cfg.rxCap.holds (s.rx.length + 1)

/-- `rx_valid`: the transport holds a byte (R34). -/
def State.rxValid (s : State) : Bool :=
  !s.rxHeld.isEmpty

/-- `tx_valid = 1` iff `len(txq) > 0` (R34). -/
def State.txValid (s : State) : Bool :=
  decide (0 < s.txq.length)

/-- `tx_byte = txq[0]` while `tx_valid` (R34). -/
def State.txByte (s : State) : Option Byte :=
  s.txq.head?

/-- `lenbad = (L < 2) or (L - 2 > MAXPAY)` (R136). -/
def lenBad (cfg : Config) (len : Half) : Bool :=
  decide (len.toNat < 2) || decide (cfg.maxPay < len.toNat - 2)

/-- `T = L + 9`, the frame's total length (R136). -/
def frameTotal (len : Half) : Nat :=
  len.toNat + headLen

/-- `complete = lenbad or (len(rx) >= T)` (R136). -/
def frameComplete (cfg : Config) (rx : Bytes) : Bool :=
  lenBad cfg (lenAt rx) || decide (frameTotal (lenAt rx) ≤ rx.length)

/-- `prefix_ok` (R137). -/
def prefixOk (a : Word) (rx : Bytes) : Bool :=
  slice rx 0 6 == framePrefix a

/-- The cause bits (R27): bit 0 `PREFIX`, bit 1 `PID`, bit 2 `LEN`, one set for each that applies. -/
def causeBits (badPrefix badPid badLen : Bool) : BitVec 3 :=
  BitVec.ofBool badLen ++ BitVec.ofBool badPid ++ BitVec.ofBool badPrefix

/-- When `PARSE` is enabled (R138). -/
def State.parseEnabled (s : State) : Bool :=
  s.res.isNone && s.expect != 0 && s.addr.isSome && decide (parseFloor ≤ s.rx.length)
    && frameComplete s.cfg s.rx

/-- When the validator can examine a frame with the given bytes at the front of `rx` (R138 for a frame in hand). -/
def State.frameEnabled (s : State) (bytes : Bytes) : Bool :=
  s.res.isNone && s.expect != 0 && s.addr.isSome && decide (parseFloor ≤ s.rx.length)
    && bytes.isPrefixOf s.rx

end Sys2Proof.Machine
end

