-- ==== Sys2Proof/Machine/Ops.lean ====
section
/-! DEFINITION. The named operations over the state that the meanings are built from. What a processor's exception
entry is elsewhere is here the posting of a Result (R194 "trap entry") and, on the host port, a refusal (R186); the
return beside them is the release of the Result (R196 "trap return"). -/

namespace Sys2Proof.Machine

/-- Give the host its reply (R34). -/
def answer (r : Reply) (s : State) : State :=
  { s with reply := some r }

/-- `refuse <Reason>` (R14, R186): no state change, the reason goes to the host. -/
def refuse (why : Reason) (s : State) : State :=
  answer (.refused why) s

/-- `ADDR <- a` (R165). -/
def setAddr (a : Word) (s : State) : State :=
  { s with addr := some a }

/-- `EXPECT <- m` (R167). -/
def setExpect (m : BitVec 4) (s : State) : State :=
  { s with expect := m }

/-- `rx <- rx ++ [b]` (R135). -/
def pushRx (b : Byte) (s : State) : State :=
  { s with rx := s.rx ++ [b] }

/-- `txq <- txq ++ bytes`, whole (R115). -/
def pushTx (bytes : Bytes) (s : State) : State :=
  { s with txq := s.txq ++ bytes }

/-- Yield the front byte of `txq` on `tx_byte` (R121); nothing when `txq` is empty. -/
def popTx (s : State) : State :=
  match s.txq with
  | [] => s
  | b :: rest => { s with txq := rest, txOut := s.txOut ++ [b] }

/-- The bytes an accepting step drops from the front of `rx` (R143); a rejecting one drops none (R141, R142). -/
def consumed (r : Result) : Nat :=
  match r.status with
  | .ok => frameTotal r.len
  | .corrupted => 0
  | .checksum => 0

/-- Post a Result, the analogue of trap entry (R194, R195): `res` is written and, when it is `OK`, the frame leaves
`rx` in the same step; nothing else changes. -/
def postResult (r : Result) (s : State) : State :=
  { s with res := some r, rx := s.rx.drop (consumed r) }

/-- Release the Result, the analogue of trap return (R146, R196): `res <- none`. -/
def releaseResult (s : State) : State :=
  { s with res := none }

/-- `rx <- []; res <- none` (R148). -/
def flushRx (s : State) : State :=
  { s with rx := [], res := none }

/-- Reset (R205): every state element takes its reset value (R32). -/
def resetElements (s : State) : State :=
  { s with addr := none, expect := 0b0000, rx := [], txq := [], res := none }

/-- The Result of R138's body once the cause bits, the payload and the received checksum are in hand: any cause
makes it `CORRUPTED` and the checksum is not looked at (R141, R192); else the checksums decide (R142, R143). -/
def verdict (cause : BitVec 3) (pid : Byte) (len : Half) (p : Bytes) (rc : Half) : Result :=
  if cause ≠ 0 then { status := .corrupted, cause := cause, pid := pid, len := len, payload := [] }
  else if rc ≠ csum16 pid len p then { status := .checksum, cause := 0, pid := pid, len := len, payload := [] }
  else { status := .ok, cause := 0, pid := pid, len := len, payload := p }

end Sys2Proof.Machine
end

