-- ==== Sys2Proof/Machine/Cfg.lean ====
section
/-! DEFINITION. Family CFG (43_config.md): configuration, status, reset and the reserved operation numbers. -/

namespace Sys2Proof.Machine

/-- `WRADDR a` (R165). -/
def execWraddr (a : Word) (s : State) : Host.Outcome State Fault Refusal :=
  .next (answer .done (setAddr a s))

/-- `RDADDR` (R166). -/
def execRdaddr (s : State) : Host.Outcome State Fault Refusal :=
  match s.addr with
  | none => .next (refuse .unconfigured s)
  | some a => .next (answer (.addr a) s)

/-- `WREXP m` (R167). -/
def execWrexp (m : BitVec 4) (s : State) : Host.Outcome State Fault Refusal :=
  .next (answer .done (setExpect m s))

/-- `RDEXP` (R168). -/
def execRdexp (s : State) : Host.Outcome State Fault Refusal :=
  .next (answer (.mask s.expect) s)

/-- `RDSTAT` (R169). -/
def execRdstat (s : State) : Host.Outcome State Fault Refusal :=
  .next (answer (.status s.statusView) s)

/-- `RESET` (R170). -/
def execReset (s : State) : Host.Outcome State Fault Refusal :=
  .next (answer .done (resetElements s))

/-- Reserved operation number `0xC` (R171). -/
def execReservedC (s : State) : Host.Outcome State Fault Refusal :=
  .next (refuse .badOp s)

/-- Reserved operation number `0xD` (R171). -/
def execReservedD (s : State) : Host.Outcome State Fault Refusal :=
  .next (refuse .badOp s)

/-- Reserved operation number `0xE` (R171). -/
def execReservedE (s : State) : Host.Outcome State Fault Refusal :=
  .next (refuse .badOp s)

end Sys2Proof.Machine
end

