-- ==== Sys2Proof/Machine/Csum.lean ====
section
/-! DEFINITION. Family CSUM (40_checksum.md): the host's access to the checksum generator. -/

namespace Sys2Proof.Machine

/-- `CSUM k, p` (R104). -/
def execCsum (k : Kind) (p : Bytes) (s : State) : Host.Outcome State Fault Refusal :=
  if s.cfg.maxPay < p.length then .next (refuse .payloadTooLong s)
  else .next (answer (.sum (csum16 k.pid (lenField p) p)) s)

end Sys2Proof.Machine
end

