-- ==== Sys2Proof/Machine/Dec.lean ====
section
/-! DEFINITION. Family DEC (42_decoder.md): bytes in, the validator's step in its general form `PARSE` and in the
four frame forms, the host's `TAKE` and `FLUSH`. -/

namespace Sys2Proof.Machine

/-- `RXB b` (R135). With `rx` full the step is not enabled: the byte stays with the transport (R60) and the turn
passes with nothing changed (log entry 7). -/
def execRxb (b : Byte) (s : State) : Host.Outcome State Fault Refusal :=
  if s.rxReady then .next (pushRx b s) else .next s

/-- The Result `PARSE` writes for the bytes `rx` under address `a` and mask `expect` (R138, the body). -/
def examine (cfg : Config) (a : Word) (expect : BitVec 4) (rx : Bytes) : Result :=
  let len := lenAt rx
  let pid := byteAt rx 6
  let n := len.toNat - 2
  verdict (causeBits (!prefixOk a rx) (!accepts expect pid) (lenBad cfg len)) pid len
    (slice rx headLen (headLen + n)) (u16 (byteAt rx (headLen + n)) (byteAt rx (headLen + 1 + n)))

/-- `PARSE` (R138). When it is not enabled the validator defers (R139, R144): the turn passes with nothing changed
(log entry 7). -/
def execParse (s : State) : Host.Outcome State Fault Refusal :=
  match s.addr with
  | none => .next s
  | some a =>
    if s.parseEnabled then .next (postResult (examine s.cfg a s.expect s.rx) s) else .next s

/-- The Result for a frame in hand, by its fields: R138 for the packet id of kind `k` (R152 to R155). `len` counts
the payload and the two checksum bytes (R72), so the payload is all of `body` but its last two bytes. -/
def examineFrame (cfg : Config) (a : Word) (expect : BitVec 4) (k : Kind) (addr : Word) (len : Half) (body : Bytes) :
    Result :=
  let n := len.toNat - 2
  verdict (causeBits (addr != a) (!expect.getLsbD k.bit) (lenBad cfg len)) k.pid len
    (body.take n) (u16 (byteAt body n) (byteAt body (n + 1)))

/-- The validator's step on a frame of kind `k` that stands at the front of `rx`. Like `PARSE`, it defers when the
validator cannot examine that frame now. -/
def frameStep (k : Kind) (addr : Word) (len : Half) (body : Bytes) (s : State) : State :=
  match s.addr with
  | none => s
  | some a =>
    if s.frameEnabled (frameBytes k addr len body) && bodyFits len body then
      postResult (examineFrame s.cfg a s.expect k addr len body) s
    else s

/-- `FRAME.CMD` (R152). -/
def execFrameCmd (addr : Word) (len : Half) (body : Bytes) (s : State) : Host.Outcome State Fault Refusal :=
  .next (frameStep .cmd addr len body s)

/-- `FRAME.DAT` (R153). -/
def execFrameDat (addr : Word) (len : Half) (body : Bytes) (s : State) : Host.Outcome State Fault Refusal :=
  .next (frameStep .dat addr len body s)

/-- `FRAME.ACK` (R154). -/
def execFrameAck (addr : Word) (len : Half) (body : Bytes) (s : State) : Host.Outcome State Fault Refusal :=
  .next (frameStep .ack addr len body s)

/-- `FRAME.END` (R155). -/
def execFrameEnd (addr : Word) (len : Half) (body : Bytes) (s : State) : Host.Outcome State Fault Refusal :=
  .next (frameStep .fin addr len body s)

/-- `TAKE` (R146): the Result goes to the host and `res` becomes none. -/
def execTake (s : State) : Host.Outcome State Fault Refusal :=
  match s.res with
  | none => .next (refuse .noResult s)
  | some r => .next (answer (.result r) (releaseResult s))

/-- `FLUSH` (R148). -/
def execFlush (s : State) : Host.Outcome State Fault Refusal :=
  .next (answer .done (flushRx s))

end Sys2Proof.Machine
end

