-- ==== Sys2Proof/Machine/Enc.lean ====
section
/-! DEFINITION. Family ENC (41_encoder.md): the four encode operations and the transport's step `TXB`. -/

namespace Sys2Proof.Machine

/-- The common step of `ENC.*` (R115): the three tests in the spec's order, then the whole frame enters `txq`. -/
def encodeInto (k : Kind) (p : Bytes) (s : State) : State :=
  match s.addr with
  | none => refuse .unconfigured s
  | some a =>
    if s.cfg.maxPay < p.length then refuse .payloadTooLong s
    else if s.cfg.txCap.holds (s.txq.length + overhead + p.length) = false then refuse .txFull s
    else answer .done (pushTx (encodeFrame k.pid a p) s)

/-- `ENC.CMD p` (R117). -/
def execEncCmd (p : Bytes) (s : State) : Host.Outcome State Fault Refusal :=
  .next (encodeInto .cmd p s)

/-- `ENC.DAT p` (R118). -/
def execEncDat (p : Bytes) (s : State) : Host.Outcome State Fault Refusal :=
  .next (encodeInto .dat p s)

/-- `ENC.ACK p` (R119). -/
def execEncAck (p : Bytes) (s : State) : Host.Outcome State Fault Refusal :=
  .next (encodeInto .ack p s)

/-- `ENC.END p` (R120). -/
def execEncEnd (p : Bytes) (s : State) : Host.Outcome State Fault Refusal :=
  .next (encodeInto .fin p s)

/-- `TXB` (R121). When `txq` is empty the step does not exist, and the turn passes with nothing changed (R14, R200;
log entry 7). -/
def execTxb (s : State) : Host.Outcome State Fault Refusal :=
  .next (popTx s)

end Sys2Proof.Machine
end

