-- ==== Sys2Proof/Machine/Dispatch.lean ====
section
/-! DEFINITION. One arm per operation. -/

namespace Sys2Proof.Machine

def exec (i : Instr) (s : State) : Host.Outcome State Fault Refusal :=
  match i with
  | .frameCmd addr len body => Sys2Proof.Machine.execFrameCmd addr len body s
  | .frameDat addr len body => Sys2Proof.Machine.execFrameDat addr len body s
  | .frameAck addr len body => Sys2Proof.Machine.execFrameAck addr len body s
  | .frameEnd addr len body => Sys2Proof.Machine.execFrameEnd addr len body s
  | .rdstat => Sys2Proof.Machine.execRdstat s
  | .rdaddr => Sys2Proof.Machine.execRdaddr s
  | .wraddr a => Sys2Proof.Machine.execWraddr a s
  | .rdexp => Sys2Proof.Machine.execRdexp s
  | .wrexp m => Sys2Proof.Machine.execWrexp m s
  | .csum k p => Sys2Proof.Machine.execCsum k p s
  | .take => Sys2Proof.Machine.execTake s
  | .flush => Sys2Proof.Machine.execFlush s
  | .encCmd p => Sys2Proof.Machine.execEncCmd p s
  | .encDat p => Sys2Proof.Machine.execEncDat p s
  | .encAck p => Sys2Proof.Machine.execEncAck p s
  | .encEnd p => Sys2Proof.Machine.execEncEnd p s
  | .reservedC => Sys2Proof.Machine.execReservedC s
  | .reservedD => Sys2Proof.Machine.execReservedD s
  | .reservedE => Sys2Proof.Machine.execReservedE s
  | .reset => Sys2Proof.Machine.execReset s
  | .rxb b => Sys2Proof.Machine.execRxb b s
  | .txb => Sys2Proof.Machine.execTxb s
  | .parse => Sys2Proof.Machine.execParse s

end Sys2Proof.Machine
end

