-- ==== Sys2Proof/Machine/Fetch.lean ====
section
/-! DEFINITION. Where a step finds the word it runs. SPF has no program counter (R21): the schedule says which agent
moves (R15), and the word is what stands on that agent's port, or for the validator the front of `rx`. -/

namespace Sys2Proof.Machine

/-- The word on the port of the agent whose turn it is; none when no turn is left, TIN holds no byte, or the turn is
the environment's (a reset request carries no word). -/
def fetch (s : State) : Option PortWord :=
  match s.sched with
  | [] => none
  | .host q :: _ => some (.op q)
  | .tin :: _ =>
    match s.rxHeld with
    | [] => none
    | b :: _ => some (.rxByte b)
  | .tout :: _ => some .txTake
  | .val :: _ => some (.frame s.rx)
  | .rst :: _ => none

/-- The turn is spent. A byte leaves the transport's hands only in a handshake, `rx_valid` and `rx_ready`
(R34, R60). The turn `rst` raises the request, and nothing else does (DESIGN CHOICE, log entry 5). -/
def advance (s : State) : State :=
  match s.sched with
  | [] => s
  | .tin :: rest => { s with sched := rest, rxHeld := if s.rxReady then s.rxHeld.tail else s.rxHeld }
  | .rst :: rest => { s with sched := rest, rst := true }
  | .host _ :: rest => { s with sched := rest }
  | .tout :: rest => { s with sched := rest }
  | .val :: rest => { s with sched := rest }

/-- The reset request on the `rst` port is served (R205); the request line falls. -/
def serveRst (s : State) : State :=
  { resetElements s with rst := false }

/-- The state in which the next step fetches the word `pw`: its agent has the next turn, the word stands on that
agent's port (for the validator, in `rx`), and no reset request is pending. -/
def place (pw : PortWord) (s : State) : State :=
  match pw with
  | .op q => { s with rst := false, sched := .host q :: s.sched }
  | .rxByte b => { s with rst := false, sched := .tin :: s.sched, rxHeld := b :: s.rxHeld }
  | .txTake => { s with rst := false, sched := .tout :: s.sched }
  | .frame bs => { s with rst := false, sched := .val :: s.sched, rx := bs }

end Sys2Proof.Machine
end

