-- ==== Sys2Proof/Machine/Step.lean ====
section
/-! DEFINITION. One step of the machine, and how a word of the opcode table is put where the next step fetches. -/

namespace Sys2Proof.Machine

/-- One atomic step (R15). A reset request that is up outranks everything (R193 d); else the agent whose turn it is takes
the step its word stands for; else SPF takes none (R200): the turn alone is spent, and a turn `rst` raises the request
that the next step serves. When a request rises is the environment's: the schedule says it (DESIGN CHOICE, log entry 5). -/
def step (s : State) : Host.Outcome State Fault Refusal :=
  if s.rst then .next (serveRst s)
  else
    match fetch s with
    | none => .next (advance s)
    | some pw => exec (decode pw) (advance s)

/-- The state whose next step fetches and runs the given word of the opcode table (log entry 6). -/
def State.withFetchWord (s : State) (nbits w : Nat) : State :=
  match tableWord nbits w with
  | none => s
  | some pw => place pw s

end Sys2Proof.Machine
end

