-- ==== Sys2Proof/Machine/Pseudo.lean ====
section
/-! DEFINITION. The pseudo-operations of 30_encoding.md R87: shorthand for sequences of steps, in the order written. -/

namespace Sys2Proof.Machine

/-- Operations taken one after another, stopping at a fault or a refusal of the model. -/
def runOps : List Instr → State → Host.Outcome State Fault Refusal
  | [], s => .next s
  | i :: is, s =>
    match exec i s with
    | .next t => runOps is t
    | .fault r => .fault r
    | .refused r => .refused r

/-- `MODE.AVAIL` is `WREXP 0b0000` (R87, R24). -/
def modeAvail : Instr :=
  .wrexp 0b0000

/-- `MODE.CMD` is `WREXP 0b0100` (R87, R24). -/
def modeCmd : Instr :=
  .wrexp 0b0100

/-- `MODE.RECV` is `WREXP 0b1010` (R87, R24). -/
def modeRecv : Instr :=
  .wrexp 0b1010

/-- `MODE.SEND` is `WREXP 0b0000` (R87, R24). -/
def modeSend : Instr :=
  .wrexp 0b0000

/-- `I: RXS [b0 ... bn]` is `RXB b0`, ..., `RXB bn` (R87). -/
def rxs (bs : Bytes) : List Instr :=
  bs.map Instr.rxb

/-- `n` steps `TXB`; `O: DRAIN` is as many as `txq` holds bytes (R87). -/
def txbs (n : Nat) : List Instr :=
  List.replicate n Instr.txb

/-- `O: DRAIN` (R87): `TXB` until `txq = []`. -/
def drain (s : State) : Host.Outcome State Fault Refusal :=
  runOps (txbs s.txq.length) s

end Sys2Proof.Machine
end

