-- ==== Sys2Proof/Safety.lean ====
section
/-! DEFINITION. What a good state is: the invariants of 10_state.md R33 under the parameter constraints of R9, and what
a host operation is. A run is safe when every step answers a next state that meets `Inv`. -/

namespace Sys2Proof.Machine

/-- R33 (ii), (iii), (iv): what a Result of each status looks like. -/
def resultOk (cfg : Config) (r : Result) : Prop :=
  match r.status with
  | .ok =>
    r.cause = 0 ∧ 2 ≤ r.len.toNat ∧ r.payload.length = r.len.toNat - 2
      ∧ (r.pid = 0x01 ∨ r.pid = 0x02 ∨ r.pid = 0x07 ∨ r.pid = 0x08) ∧ r.payload.length ≤ cfg.maxPay
  | .corrupted => r.cause ≠ 0 ∧ r.payload = []
  | .checksum => r.cause = 0 ∧ 2 ≤ r.len.toNat ∧ r.payload = []

/-- A frame some `ENC.*` has sent: its kind, the address in force then (R59), its payload. -/
structure SentFrame where
  /-- the kind -/
  kind : Kind
  /-- the address it was encoded with -/
  addr : Word
  /-- the payload -/
  payload : Bytes
deriving DecidableEq, Repr

/-- The bytes of frames one after another, each whole. -/
def wholeFrames : List SentFrame → Bytes
  | [] => []
  | f :: fs => encodeFrame f.kind.pid f.addr f.payload ++ wholeFrames fs

/-- R33 (v): a concatenation of whole encoded frames minus some bytes taken from its front. -/
def txWhole (cfg : Config) (txq : Bytes) : Prop :=
  ∃ (fs : List SentFrame) (k : Nat), (∀ f ∈ fs, f.payload.length ≤ cfg.maxPay)
    ∧ k ≤ (wholeFrames fs).length ∧ txq = (wholeFrames fs).drop k

/-- The invariants of R33, with the parameter constraints of R9. -/
structure Inv (s : State) : Prop where
  /-- R9 -/
  cfgOk : s.cfg.ok = true
  /-- R33 (i) -/
  rxFits : s.cfg.rxCap.holds s.rx.length = true
  /-- R33 (i) -/
  txFits : s.cfg.txCap.holds s.txq.length = true
  /-- R33 (ii) to (iv) -/
  resOk : ∀ r, s.res = some r → resultOk s.cfg r
  /-- R33 (v) -/
  txFrames : txWhole s.cfg s.txq

/-- The step is taken by the validator: `PARSE` or one of the frame forms (R85, R152 to R155). -/
def isValidatorStep : Instr → Bool
  | .frameCmd _ _ _ => true
  | .frameDat _ _ _ => true
  | .frameAck _ _ _ => true
  | .frameEnd _ _ _ => true
  | .parse => true
  | .rdstat => false
  | .rdaddr => false
  | .wraddr _ => false
  | .rdexp => false
  | .wrexp _ => false
  | .csum _ _ => false
  | .take => false
  | .flush => false
  | .encCmd _ => false
  | .encDat _ => false
  | .encAck _ => false
  | .encEnd _ => false
  | .reservedC => false
  | .reservedD => false
  | .reservedE => false
  | .reset => false
  | .rxb _ => false
  | .txb => false

end Sys2Proof.Machine
end

