-- ==== Sys2Proof/Certificates/Slice0/Obligations.lean ====
section
/-! DEFINITION. The statements for the provers. Each says what a numbered rule of spec/ says an operation or the
machine does. Unless a docstring says otherwise nothing in them is the model's own choice; the fields `reply`,
`rxHeld`, `txOut`, `rst` and `sched` are what stands on the ports of R34 and the schedule of R15. -/

open Sys2Proof Sys2Proof.Machine

/-! ### Reset and the host's registers -/

/-- R32, with the signals R205 names after reset. -/
def Obligations.ResetLeavesSpecValues : Prop :=
  State.reset.addr = none ∧ State.reset.expect = 0b0000 ∧ State.reset.rx = [] ∧ State.reset.txq = []
    ∧ State.reset.res = none ∧ State.reset.irqRes = false ∧ State.reset.txValid = false ∧ State.reset.rxReady = true

/-- From R170 and R205: the `RESET` operation and the `rst` port put every state element at its reset value, and the
signals after it are those R205 gives (for parameters that meet R9). The rest of the `rst` clause is the model's choice:
that the step which serves the request comes before any turn, lowers `rst` and keeps the schedule (log entry 5), and that
the reply, the held bytes and the wire stay as they were (log entry 4, for `RESET` too but for its reply). -/
def Obligations.ResetRestoresEveryElement : Prop :=
  (∀ s : State, exec .reset s = .next { s with addr := none, expect := 0b0000, rx := [], txq := [], res := none, reply := some .done })
    ∧ (∀ s : State, s.rst = true →
        step s = .next { s with addr := none, expect := 0b0000, rx := [], txq := [], res := none, rst := false })
    ∧ ∀ s t : State, s.cfg.ok = true → (exec .reset s = .next t ∨ (s.rst = true ∧ step s = .next t)) →
        t.irqRes = false ∧ t.txValid = false ∧ t.rxReady = true

/-- R166. -/
def Obligations.RdaddrRepliesOrRefuses : Prop :=
  (∀ (s : State) (a : Word), s.addr = some a → exec .rdaddr s = .next { s with reply := some (.addr a) })
    ∧ ∀ s : State, s.addr = none → exec .rdaddr s = .next { s with reply := some (.refused .unconfigured) }

/-- R168, R169. -/
def Obligations.RdexpAndRdstatReply : Prop :=
  ∀ s : State, exec .rdexp s = .next { s with reply := some (.mask s.expect) }
    ∧ ∃ v : StatusView, exec .rdstat s = .next { s with reply := some (.status v) }
      ∧ (v.rvalid = true ↔ s.res ≠ none) ∧ (v.cfgd = true ↔ s.addr ≠ none)
      ∧ v.rxlen = s.rx.length ∧ v.txlen = s.txq.length

/-- R165, R167: the register takes the value, `CFGD` becomes 1, nothing else changes (so bytes in `txq` and `rx` and
a pending Result stay as they are), and no value is refused. -/
def Obligations.WraddrAndWrexpWrite : Prop :=
  ∀ s : State,
    (∀ a : Word, exec (.wraddr a) s = .next { s with addr := some a, reply := some .done }
      ∧ ({ s with addr := some a, reply := some .done } : State).statusView.cfgd = true)
    ∧ ∀ m : BitVec 4, exec (.wrexp m) s = .next { s with expect := m, reply := some .done }

/-- R146: the Result goes to the host once; a `TAKE` with none pending is refused. -/
def Obligations.TakeDeliversOnce : Prop :=
  (∀ (s : State) (r : Result), s.res = some r →
      exec .take s = .next { s with res := none, reply := some (.result r) })
    ∧ ∀ s : State, s.res = none → exec .take s = .next { s with reply := some (.refused .noResult) }

/-- R148. -/
def Obligations.FlushEmptiesReceiveSide : Prop :=
  ∀ s : State, exec .flush s = .next { s with rx := [], res := none, reply := some .done }

/-- R171: a host operation with one of the three reserved numbers is refused with `BadOp` and changes no state,
whatever its arguments are. -/
def Obligations.ReservedNumbersAreBadOp : Prop :=
  (∀ s : State, exec .reservedC s = .next { s with reply := some (.refused .badOp) }
      ∧ exec .reservedD s = .next { s with reply := some (.refused .badOp) }
      ∧ exec .reservedE s = .next { s with reply := some (.refused .badOp) })
    ∧ ∀ (q : HostReq) (s : State), q.op = 0xC ∨ q.op = 0xD ∨ q.op = 0xE →
        exec (decode (.op q)) s = .next { s with reply := some (.refused .badOp) }

/-! ### The checksum generator -/

/-- R104 with the function of R100: the 16-bit sum of the packet id, the two bytes of `len(p) + 2` and the payload
bytes, modulo 65536; or the refusal. -/
def Obligations.CsumRepliesChecksum : Prop :=
  ∀ (k : Kind) (p : Bytes) (s : State), s.cfg.ok = true →
    (p.length ≤ s.cfg.maxPay →
      ∃ v : Half, exec (.csum k p) s = .next { s with reply := some (.sum v) }
        ∧ v.toNat = (k.pid.toNat + (p.length + 2) / 256 + (p.length + 2) % 256 + (p.map BitVec.toNat).sum) % 65536)
    ∧ (s.cfg.maxPay < p.length → exec (.csum k p) s = .next { s with reply := some (.refused .payloadTooLong) })

/-- R101: adding one byte at a time into a 16-bit register, in any order, gives the same value. -/
def Obligations.ChecksumByteSerial : Prop :=
  ∀ (pid : Byte) (len : Half) (p order : Bytes),
    order.Perm ([pid, len.extractLsb' 8 8, len.extractLsb' 0 8] ++ p) →
      order.foldl (fun acc b => acc + b.setWidth 16) (0 : Half) = csum16 pid len p

/-- From R103: any single-bit flip in the payload, in the packet id or in either length byte (as inputs of the
function) changes the checksum. -/
def Obligations.ChecksumDetectsSingleBitFlip : Prop :=
  ∀ (pid : Byte) (len : Half) (p : Bytes),
    (∀ (i k : Nat), k < 8 → ∀ h : i < p.length,
      csum16 pid len (p.set i (p[i] ^^^ (1#8 <<< k))) ≠ csum16 pid len p)
    ∧ (∀ k : Nat, k < 8 → csum16 (pid ^^^ (1#8 <<< k)) len p ≠ csum16 pid len p)
    ∧ ∀ k : Nat, k < 16 → csum16 pid (len ^^^ (1#16 <<< k)) p ≠ csum16 pid len p

/-! ### The encoder and the transmit side -/

/-- R115 to R120: `ENC.CMD`, `ENC.DAT`, `ENC.ACK`, `ENC.END` make the three tests in the spec's order; if none holds
the whole frame, byte by byte as R115 writes it, goes to the back of `txq`. Nothing else changes. -/
def Obligations.EncAppendsWholeFrameOrRefuses : Prop :=
  ∀ (i : Instr) (pid : Byte) (p : Bytes) (s : State), s.cfg.ok = true →
    ((i = .encCmd p ∧ pid = 0x01) ∨ (i = .encDat p ∧ pid = 0x02) ∨ (i = .encAck p ∧ pid = 0x07)
      ∨ (i = .encEnd p ∧ pid = 0x08)) →
    (s.addr = none → exec i s = .next { s with reply := some (.refused .unconfigured) })
    ∧ ∀ a : Word, s.addr = some a →
      (s.cfg.maxPay < p.length → exec i s = .next { s with reply := some (.refused .payloadTooLong) })
      ∧ (p.length ≤ s.cfg.maxPay → ∀ n : Nat, s.cfg.txCap = .bytes n → n < s.txq.length + 11 + p.length →
          exec i s = .next { s with reply := some (.refused .txFull) })
      ∧ (p.length ≤ s.cfg.maxPay → (∀ n : Nat, s.cfg.txCap = .bytes n → s.txq.length + 11 + p.length ≤ n) →
          ∀ c : Nat,
            c = (pid.toNat + (p.length + 2) / 256 + (p.length + 2) % 256 + (p.map BitVec.toNat).sum) % 65536 →
            exec i s = .next { s with
              txq := s.txq ++ ([0xEF, 0x01, BitVec.ofNat 8 (a.toNat / 2 ^ 24), BitVec.ofNat 8 (a.toNat / 2 ^ 16),
                  BitVec.ofNat 8 (a.toNat / 2 ^ 8), BitVec.ofNat 8 a.toNat, pid,
                  BitVec.ofNat 8 ((p.length + 2) / 256), BitVec.ofNat 8 (p.length + 2)]
                ++ p ++ [BitVec.ofNat 8 (c / 256), BitVec.ofNat 8 c])
              reply := some .done })

/-- R121: the front byte of a non-empty `txq` goes out on `tx_byte`; nothing else changes. -/
def Obligations.TxbYieldsFrontByte : Prop :=
  ∀ (s : State) (b : Byte) (rest : Bytes), s.txq = b :: rest →
    exec .txb s = .next { s with txq := rest, txOut := s.txOut ++ [b] }

/-- From R57 item 3, R121 and R87: `n` steps `TXB` put the first `n` bytes of `txq` on the wire in the order they were
appended, and `DRAIN` puts them all there. -/
def Obligations.TxbsYieldInOrder : Prop :=
  ∀ s : State,
    (∀ n : Nat, n ≤ s.txq.length →
      runOps (txbs n) s = .next { s with txq := s.txq.drop n, txOut := s.txOut ++ s.txq.take n })
    ∧ drain s = .next { s with txq := [], txOut := s.txOut ++ s.txq }

/-- R122 (a), (b): the length of an encoded frame, and that two different triples give different byte strings. -/
def Obligations.EncodeLengthAndInjective : Prop :=
  (∀ (pid : Byte) (a : Word) (p : Bytes), (encodeFrame pid a p).length = 11 + p.length)
    ∧ ∀ (pid pid' : Byte) (a a' : Word) (p p' : Bytes), p.length ≤ 65533 → p'.length ≤ 65533 →
        encodeFrame pid a p = encodeFrame pid' a' p' → pid = pid' ∧ a = a' ∧ p = p'

/-! ### Bytes in, and the validator -/

/-- R135: with room in `rx` the byte goes to its back; nothing else changes, and nothing else is looked at. -/
def Obligations.RxbAppendsByte : Prop :=
  ∀ (s : State) (b : Byte), (∀ n : Nat, s.cfg.rxCap = .bytes n → s.rx.length < n) →
    exec (.rxb b) s = .next { s with rx := s.rx ++ [b] }

/-- From R52 and R57 item 1: a byte string delivered by `RXB` steps stands in `rx` in order, and how it was cut into
chunks does not matter. -/
def Obligations.RxsAppendInOrder : Prop :=
  ∀ (bs cs : Bytes) (s : State), (∀ n : Nat, s.cfg.rxCap = .bytes n → s.rx.length + bs.length + cs.length ≤ n) →
    runOps (rxs (bs ++ cs)) s = .next { s with rx := s.rx ++ bs ++ cs }
      ∧ runOps (rxs cs) { s with rx := s.rx ++ bs } = .next { s with rx := s.rx ++ bs ++ cs }

/-- R143: a complete frame with the right prefix, an accepted packet id and an agreeing checksum at the front of `rx`:
the Result is `OK` with its fields, exactly the frame's bytes leave `rx`, and nothing else changes. -/
def Obligations.ParseAcceptsGoodFrame : Prop :=
  ∀ (s : State) (a : Word) (k : Kind) (p rest : Bytes), s.cfg.ok = true → s.res = none → s.addr = some a →
    s.expect.getLsbD k.bit = true → p.length ≤ s.cfg.maxPay → 12 ≤ s.rx.length →
    s.rx = [0xEF, 0x01] ++ be32 a ++ [k.pid] ++ be16 (BitVec.ofNat 16 (p.length + 2)) ++ p
      ++ be16 (csum16 k.pid (BitVec.ofNat 16 (p.length + 2)) p) ++ rest →
    exec .parse s = .next { s with
      res := some { status := .ok, cause := 0, pid := k.pid, len := BitVec.ofNat 16 (p.length + 2), payload := p }
      rx := rest }

/-- R141: when `PARSE` fires and the prefix differs, the packet id is not accepted, or the length field is unsound, the
Result is `CORRUPTED` with one cause bit for each that holds, and `rx` is left as it was. -/
def Obligations.ParseRejectsCorrupted : Prop :=
  ∀ (s : State) (a : Word) (pid : Byte) (len : Nat) (badPrefix badPid badLen : Prop),
    s.res = none → s.expect ≠ 0 → s.addr = some a → 12 ≤ s.rx.length →
    pid = byteAt s.rx 6 → len = (byteAt s.rx 7).toNat * 256 + (byteAt s.rx 8).toNat →
    (badPrefix ↔ s.rx.take 6 ≠ [0xEF, 0x01, BitVec.ofNat 8 (a.toNat / 2 ^ 24), BitVec.ofNat 8 (a.toNat / 2 ^ 16),
      BitVec.ofNat 8 (a.toNat / 2 ^ 8), BitVec.ofNat 8 a.toNat]) →
    (badPid ↔ ¬((pid = 0x01 ∧ s.expect.getLsbD 0 = true) ∨ (pid = 0x02 ∧ s.expect.getLsbD 1 = true)
      ∨ (pid = 0x07 ∧ s.expect.getLsbD 2 = true) ∨ (pid = 0x08 ∧ s.expect.getLsbD 3 = true))) →
    (badLen ↔ len < 2 ∨ s.cfg.maxPay < len - 2) →
    (badLen ∨ len + 9 ≤ s.rx.length) →
    (badPrefix ∨ badPid ∨ badLen) →
    ∃ c : BitVec 3, (c.getLsbD 0 = true ↔ badPrefix) ∧ (c.getLsbD 1 = true ↔ badPid)
      ∧ (c.getLsbD 2 = true ↔ badLen)
      ∧ exec .parse s = .next { s with
          res := some { status := .corrupted, cause := c, pid := pid, len := BitVec.ofNat 16 len, payload := [] } }

/-- R142: when `PARSE` fires, no `CORRUPTED` cause holds and the two bytes after the payload differ from the computed
checksum, the Result is `CHECKSUM` with no cause and no payload, and `rx` is left as it was. -/
def Obligations.ParseRejectsChecksum : Prop :=
  ∀ (s : State) (a : Word) (k : Kind) (p rest : Bytes) (rc : Half), s.cfg.ok = true → s.res = none →
    s.addr = some a → s.expect.getLsbD k.bit = true → p.length ≤ s.cfg.maxPay → 12 ≤ s.rx.length →
    s.rx = [0xEF, 0x01] ++ be32 a ++ [k.pid] ++ be16 (BitVec.ofNat 16 (p.length + 2)) ++ p ++ be16 rc ++ rest →
    rc ≠ csum16 k.pid (BitVec.ofNat 16 (p.length + 2)) p →
    exec .parse s = .next { s with
      res := some { status := .checksum, cause := 0, pid := k.pid, len := BitVec.ofNat 16 (p.length + 2),
                    payload := [] } }

/-- The model's choice (log entry 7): a turn whose agent has no enabled step passes and changes nothing. The conditions
are those of R135 (`rx` full), R121 (`txq` empty), R138 and R139 (a Result pending, `EXPECT = 0`, `ADDR` unwritten,
fewer than 12 bytes, or a sound length field whose frame is not all there); a frame form also passes when the frame is
not at the front of `rx`. -/
def Obligations.DisabledTurnsChangeNothing : Prop :=
  ∀ s : State,
    (∀ (n : Nat) (b : Byte), s.cfg.rxCap = .bytes n → n ≤ s.rx.length → exec (.rxb b) s = .next s)
    ∧ (s.txq = [] → exec .txb s = .next s)
    ∧ (∀ len : Nat, len = (byteAt s.rx 7).toNat * 256 + (byteAt s.rx 8).toNat →
        (s.res ≠ none ∨ s.expect = 0 ∨ s.addr = none ∨ s.rx.length < 12
          ∨ (2 ≤ len ∧ len - 2 ≤ s.cfg.maxPay ∧ s.rx.length < len + 9)) →
        exec .parse s = .next s
          ∧ ∀ (k : Kind) (addr : Word) (l : Half) (body : Bytes), exec (frameInstr k addr l body) s = .next s)
    ∧ ∀ (k : Kind) (addr : Word) (l : Half) (body : Bytes),
        (∀ rest : Bytes, s.rx ≠ frameBytes k addr l body ++ rest) → exec (frameInstr k addr l body) s = .next s

/-- R152 to R155, each with R138 for its packet id: `FRAME.CMD`, `FRAME.DAT`, `FRAME.ACK`, `FRAME.END` at the front of
`rx`, sound in length and examined, is accepted iff its `EXPECT` bit is 1, the prefix matches and the checksum agrees;
with the bit 0 it is `CORRUPTED` with cause `PID`. -/
def Obligations.FrameFormsJudgeReceivedFrame : Prop :=
  ∀ (i : Instr) (pid : Byte) (bit : Nat) (s : State) (a addr : Word) (p rest : Bytes) (len rc : Half),
    s.cfg.ok = true → s.res = none → s.expect ≠ 0 → s.addr = some a → p.length ≤ s.cfg.maxPay → 12 ≤ s.rx.length →
    len = BitVec.ofNat 16 (p.length + 2) →
    s.rx = [0xEF, 0x01] ++ be32 addr ++ [pid] ++ be16 len ++ p ++ be16 rc ++ rest →
    ((i = .frameCmd addr len (p ++ be16 rc) ∧ pid = 0x01 ∧ bit = 0)
      ∨ (i = .frameDat addr len (p ++ be16 rc) ∧ pid = 0x02 ∧ bit = 1)
      ∨ (i = .frameAck addr len (p ++ be16 rc) ∧ pid = 0x07 ∧ bit = 2)
      ∨ (i = .frameEnd addr len (p ++ be16 rc) ∧ pid = 0x08 ∧ bit = 3)) →
    (s.expect.getLsbD bit = true ∧ addr = a ∧ rc = csum16 pid len p →
      exec i s = .next { s with
        res := some { status := .ok, cause := 0, pid := pid, len := len, payload := p }, rx := rest })
    ∧ (s.expect.getLsbD bit = false →
        exec i s = .next { s with
          res := some { status := .corrupted, cause := if addr = a then 0b010 else 0b011, pid := pid, len := len,
                        payload := [] } })
    ∧ (¬(s.expect.getLsbD bit = true ∧ addr = a ∧ rc = csum16 pid len p) →
        ∃ r : Result, exec i s = .next { s with res := some r } ∧ r.status ≠ .ok ∧ r.payload = [])

/-- R152 to R155 "Semantics: rule R138": on any frame that stands at the front of `rx`, sound in length or not, the frame
form is the step `PARSE`. -/
def Obligations.FrameFormIsParse : Prop :=
  ∀ (k : Kind) (addr : Word) (len : Half) (body rest : Bytes) (s : State), bodyFits len body = true →
    s.rx = frameBytes k addr len body ++ rest → exec (frameInstr k addr len body) s = exec .parse s

/-- R145: what `PARSE` does depends only on `rx`, `ADDR`, `EXPECT`, `res` and `MAXPAY`; and once it is enabled, bytes
that arrive behind change neither that nor its Result. -/
def Obligations.ParseDependsOnFrameOnly : Prop :=
  (∀ s t : State, s.rx = t.rx → s.addr = t.addr → s.expect = t.expect → s.res = t.res →
      s.cfg.maxPay = t.cfg.maxPay →
      ∃ (r : Option Result) (x : Bytes), exec .parse s = .next { s with res := r, rx := x }
        ∧ exec .parse t = .next { t with res := r, rx := x })
    ∧ ∀ (s u : State) (x : Bytes), s.res = none → exec .parse s = .next u → u.res ≠ none →
        exec .parse { s with rx := s.rx ++ x } = .next { u with rx := u.rx ++ x }

/-- From R192: when a frame is `CORRUPTED`, nothing after its 9-byte head is examined: replacing those bytes by any
others changes neither the Result nor anything else. -/
def Obligations.CorruptedOutranksChecksum : Prop :=
  ∀ (s u : State) (r : Result) (x : Bytes), s.res = none → exec .parse s = .next u → u.res = some r →
    r.status = .corrupted → x.length = s.rx.length → x.take 9 = s.rx.take 9 →
    exec .parse { s with rx := x } = .next { s with rx := x, res := some r }

/-- R140 (a), (b): below 12 bytes nothing is examined; a frame with a payload byte is examined as soon as its last byte
is there; an empty frame is examined when one more byte has arrived, which stays. (That an unexamined frame leaves the
state as it was is the model's choice, log entry 7.) -/
def Obligations.TwelveByteFloor : Prop :=
  (∀ s : State, s.rx.length < 12 → exec .parse s = .next s)
    ∧ ∀ (s : State) (a : Word) (k : Kind) (p : Bytes), s.cfg.ok = true → s.res = none → s.addr = some a →
        s.expect.getLsbD k.bit = true → p.length ≤ s.cfg.maxPay → s.rx = encodeFrame k.pid a p →
        (p ≠ [] → exec .parse s = .next { s with
          res := some { status := .ok, cause := 0, pid := k.pid, len := lenField p, payload := p }, rx := [] })
        ∧ (p = [] → exec .parse s = .next s
          ∧ ∀ b : Byte, exec .parse { s with rx := s.rx ++ [b] } = .next { s with
              res := some { status := .ok, cause := 0, pid := k.pid, len := 2, payload := [] }, rx := [b] })

/-- From R146 "Corner cases": after a non-OK Result, `TAKE` alone lets `PARSE` report the same error again. -/
def Obligations.TakeAloneRepeatsTheError : Prop :=
  ∀ (s u : State) (r : Result), s.res = none → exec .parse s = .next u → u.res = some r → r.status ≠ .ok →
    runOps [.take, .parse] u = .next { s with res := some r, reply := some (.result r) }

/-- R149: the bytes of a second frame stay in `rx` behind the accepted one, and once the first Result is taken `PARSE`
reports the second with no new `RXB`. -/
def Obligations.CoalescedFrameIsNotStranded : Prop :=
  ∀ (s : State) (a : Word) (k k' : Kind) (p p' rest : Bytes), s.cfg.ok = true → s.res = none → s.addr = some a →
    s.expect.getLsbD k.bit = true → s.expect.getLsbD k'.bit = true → p.length ≤ s.cfg.maxPay →
    p'.length ≤ s.cfg.maxPay → (p' = [] → rest ≠ []) →
    s.rx = encodeFrame k.pid a p ++ encodeFrame k'.pid a p' ++ rest →
    runOps [.parse, .take, .parse] s = .next { s with
      rx := rest
      reply := some (.result { status := .ok, cause := 0, pid := k.pid, len := lenField p, payload := p })
      res := some { status := .ok, cause := 0, pid := k'.pid, len := lenField p', payload := p' } }

/-- R60: under the constraints of R9 a full `rx` persists only while the host holds the validator off: if no Result is
pending, `EXPECT` is not 0 and `ADDR` is written, then either a byte can be received or `PARSE` writes a Result. -/
def Obligations.FullAccumulatorNeverBlocksTheValidator : Prop :=
  ∀ (s : State) (a : Word), s.cfg.ok = true → s.res = none → s.expect ≠ 0 → s.addr = some a →
    (∀ b : Byte, exec (.rxb b) s = .next { s with rx := s.rx ++ [b] })
      ∨ ∃ (u : State) (r : Result), exec .parse s = .next u ∧ u.res = some r

/-! ### Encodings -/

/-- R70, R84, R85: decoding the word of a well-formed operation gives it back, every operand at every value; and bytes
behind a frame do not change what it decodes to (R76). -/
def Obligations.DecodeOfEncode : Prop :=
  (∀ i : Instr, i.wf = true → decode (encode i) = i)
    ∧ ∀ (k : Kind) (addr : Word) (len : Half) (body rest : Bytes), bodyFits len body = true →
        decode (.frame (frameBytes k addr len body ++ rest)) = frameInstr k addr len body

/-- The match and mask of the four `FRAME.*` rows (R152 to R155) over the 72-bit head numbered as R70 numbers it: a head
with all its announced bytes behind it decodes to the row of kind `k` iff it matches that row, with the address in bits
55:24 and the length in bits 15:0. -/
def Obligations.FrameRowsMatchMaskedHead : Prop :=
  ∀ (v : BitVec 72) (k : Kind) (tail : Bytes) (m : BitVec 72),
    ((k = .cmd ∧ m = 0xEF0100000000010000) ∨ (k = .dat ∧ m = 0xEF0100000000020000)
      ∨ (k = .ack ∧ m = 0xEF0100000000070000) ∨ (k = .fin ∧ m = 0xEF0100000000080000)) →
    (v.extractLsb' 0 16).toNat ≤ tail.length →
    (v &&& 0xFFFF00000000FF0000 = m →
      decodeFrame (headOfNumber v ++ tail)
        = .ok (frameInstr k (v.extractLsb' 24 32) (v.extractLsb' 0 16) (tail.take (v.extractLsb' 0 16).toNat)))
    ∧ (v &&& 0xFFFF00000000FF0000 ≠ m →
        ∀ (addr : Word) (len : Half) (body : Bytes), decodeFrame (headOfNumber v ++ tail) ≠ .ok (frameInstr k addr len body))

/-- The operation numbers and arguments of R84's table, and its reading of `0b10kk`. -/
def Obligations.HostOperationNumbers : Prop :=
  (∀ (a : Word) (m : BitVec 4) (k : BitVec 2) (p : Bytes) (f : BitVec 4 → Instr),
    (∀ n : BitVec 4, f n = decode (.op { op := n, a := a, m := m, k := k, p := p })) →
      f 0x0 = .rdstat ∧ f 0x1 = .rdaddr ∧ f 0x2 = .wraddr a ∧ f 0x3 = .rdexp ∧ f 0x4 = .wrexp m
      ∧ (∃ d : Kind, f 0x5 = .csum d p ∧ ((k = 0b00 ∧ d = .cmd) ∨ (k = 0b01 ∧ d = .dat) ∨ (k = 0b10 ∧ d = .ack)
          ∨ (k = 0b11 ∧ d = .fin)))
      ∧ f 0x6 = .take ∧ f 0x7 = .flush ∧ f 0x8 = .encCmd p ∧ f 0x9 = .encDat p ∧ f 0xA = .encAck p ∧ f 0xB = .encEnd p
      ∧ f 0xC = .reservedC ∧ f 0xD = .reservedD ∧ f 0xE = .reservedE ∧ f 0xF = .reset
      ∧ ∀ c : BitVec 2, f (0b10#2 ++ c) = encInstr (Kind.ofCode c) p)

/-- Words written out from the spec's encodings: the frames of E8 and V-E6, and the bytes of V-D13, which are no row. -/
def Obligations.SpecWordsDecode : Prop :=
  decode (.frame [0xEF, 0x01, 0xFF, 0xFF, 0xFF, 0xFF, 0x07, 0x00, 0x03, 0x00, 0x00, 0x0A])
      = .frameAck 0xFFFFFFFF 3 [0x00, 0x00, 0x0A]
    ∧ decode (.frame [0xEF, 0x01, 0x12, 0x34, 0x56, 0x78, 0x02, 0x00, 0x06, 0xDE, 0xAD, 0xBE, 0xEF, 0x03, 0x40])
      = .frameDat 0x12345678 6 [0xDE, 0xAD, 0xBE, 0xEF, 0x03, 0x40]
    ∧ decodeFrame [0xEF, 0x01, 0xFF, 0xFF, 0xFF, 0xFF, 0x05, 0x00, 0x03, 0x00, 0x00, 0x08] = .error (.badPid 0x05)
    ∧ decode (.frame [0xEF, 0x01, 0xFF, 0xFF, 0xFF, 0xFF, 0x05, 0x00, 0x03, 0x00, 0x00, 0x08]) = .parse

/-! ### The machine as a whole -/

/-- A step runs what the moving agent's word decodes to (R15, R34): the turn is spent, and a byte leaves the
transport's hands only in a handshake. The schedule is the model's form of R15's interleaving (log entry 2), and a turn
that raises a reset request its form of the `rst` port (log entry 5). -/
def Obligations.StepRunsDecodedWord : Prop :=
  ∀ (s : State) (rest : List Turn), s.rst = false →
    (∀ q : HostReq, s.sched = .host q :: rest → step s = exec (decode (.op q)) { s with sched := rest })
    ∧ (∀ (b : Byte) (held : Bytes), s.sched = .tin :: rest → s.rxHeld = b :: held →
        step s = exec (.rxb b) { s with sched := rest, rxHeld := if s.rxReady then held else b :: held })
    ∧ (s.sched = .tout :: rest → step s = exec .txb { s with sched := rest })
    ∧ (∀ i : Instr, s.sched = .val :: rest → decode (.frame s.rx) = i → step s = exec i { s with sched := rest })
    ∧ (s.sched = .tin :: rest → s.rxHeld = [] → step s = .next { s with sched := rest })
    ∧ (s.sched = .rst :: rest → step s = .next { s with sched := rest, rst := true })
    ∧ (s.sched = [] → step s = .next s)

/-- A word of the opcode table placed where the step fetches is what the next step runs, and the turns to come are as
they were (log entries 2, 6). -/
def Obligations.FetchWordIsRun : Prop :=
  ∀ (nbits w : Nat) (i : Instr) (s : State), decodeTableWord nbits w = some i →
    step (s.withFetchWord nbits w) = exec i (advance (s.withFetchWord nbits w))
      ∧ (advance (s.withFetchWord nbits w)).sched = s.sched

/-- R138: whatever stands in `rx`, the validator's turn is the step `PARSE`. -/
def Obligations.ValidatorTurnIsParse : Prop :=
  ∀ (s : State) (rest : List Turn), s.rst = false → s.sched = .val :: rest →
    step s = exec .parse { s with sched := rest }

/-- From R60: a byte the transport offers is never lost: after TIN's turn, `rx` followed by what the transport still
holds is what it was before. -/
def Obligations.OfferedByteIsNeverLost : Prop :=
  ∀ (s : State) (rest : List Turn), s.rst = false → s.sched = .tin :: rest →
    ∃ t : State, step s = .next t ∧ t.rx ++ t.rxHeld = s.rx ++ s.rxHeld
      ∧ t = { s with sched := rest, rx := t.rx, rxHeld := t.rxHeld }

/-- R23, R24, R31: which steps write the configuration registers; the parameters are written by none. -/
def Obligations.OnlyConfigurationWritesRegisters : Prop :=
  ∀ (i : Instr) (s t : State), exec i s = .next t →
    ((t.addr = s.addr) ∨ (∃ a : Word, i = .wraddr a ∧ t.addr = some a) ∨ (i = .reset ∧ t.addr = none))
    ∧ ((t.expect = s.expect) ∨ (∃ m : BitVec 4, i = .wrexp m ∧ t.expect = m) ∨ (i = .reset ∧ t.expect = 0))
    ∧ t.cfg = s.cfg

/-- R25: what changes `rx`, and how. -/
def Obligations.OnlyReceiveStepsChangeRx : Prop :=
  ∀ (i : Instr) (s t : State), exec i s = .next t →
    t.rx = s.rx
    ∨ (∃ b : Byte, i = .rxb b ∧ t.rx = s.rx ++ [b])
    ∨ (isValidatorStep i = true ∧ s.res = none
        ∧ ∃ r : Result, t.res = some r ∧ r.status = .ok ∧ t.rx = s.rx.drop (r.len.toNat + 9))
    ∨ ((i = .flush ∨ i = .reset) ∧ t.rx = [])

/-- R26: what changes `txq`, and how; what leaves its front goes to the wire. -/
def Obligations.OnlyTransmitStepsChangeTxq : Prop :=
  ∀ (i : Instr) (s t : State), exec i s = .next t →
    (t.txq = s.txq ∧ t.txOut = s.txOut)
    ∨ (∃ (k : Kind) (a : Word) (p : Bytes), i = encInstr k p ∧ s.addr = some a
        ∧ t.txq = s.txq ++ encodeFrame k.pid a p ∧ t.txOut = s.txOut)
    ∨ (∃ b : Byte, i = .txb ∧ s.txq = b :: t.txq ∧ t.txOut = s.txOut ++ [b])
    ∨ (i = .reset ∧ t.txq = [] ∧ t.txOut = s.txOut)

/-- R27, R147: a Result is written only by the validator and only while there is none; a pending one is changed by
`TAKE`, `FLUSH` and reset only, which set it to none. -/
def Obligations.PendingResultIsKept : Prop :=
  ∀ (i : Instr) (s t : State), exec i s = .next t →
    t.res = s.res
    ∨ (isValidatorStep i = true ∧ s.res = none ∧ ∃ r : Result, t.res = some r)
    ∨ ((i = .take ∨ i = .flush ∨ i = .reset) ∧ t.res = none)

/-- R186: a refused host operation changes no state, and each reason is given by the operations and in the condition
of R186's table, the lowest code that holds. -/
def Obligations.RefusalChangesNoState : Prop :=
  Reason.code .unconfigured = 1 ∧ Reason.code .payloadTooLong = 2 ∧ Reason.code .txFull = 3
  ∧ Reason.code .noResult = 4 ∧ Reason.code .badOp = 5
  ∧ ∀ (q : HostReq) (s t : State) (why : Reason), exec (decode (.op q)) s = .next t →
    t.reply = some (.refused why) →
    t = { s with reply := some (.refused why) } ∧ t.irqRes = s.irqRes
    ∧ (why = .unconfigured → s.addr = none
        ∧ (q.op = 0x1 ∨ q.op = 0x8 ∨ q.op = 0x9 ∨ q.op = 0xA ∨ q.op = 0xB))
    ∧ (why = .payloadTooLong → s.cfg.maxPay < q.p.length
        ∧ (q.op = 0x5 ∨ (s.addr ≠ none ∧ (q.op = 0x8 ∨ q.op = 0x9 ∨ q.op = 0xA ∨ q.op = 0xB))))
    ∧ (why = .txFull → s.addr ≠ none ∧ q.p.length ≤ s.cfg.maxPay
        ∧ (∃ n : Nat, s.cfg.txCap = .bytes n ∧ n < s.txq.length + 11 + q.p.length)
        ∧ (q.op = 0x8 ∨ q.op = 0x9 ∨ q.op = 0xA ∨ q.op = 0xB))
    ∧ (why = .noResult → s.res = none ∧ q.op = 0x6)
    ∧ (why = .badOp → q.op = 0xC ∨ q.op = 0xD ∨ q.op = 0xE)

/-- No operation stops the machine, in any state: an error is a Result and a refusal is a reply (R181, R186; log entry
9). That a step which is not enabled (`TXB` with `txq` empty, `RXB` with `rx` full, a deferred `PARSE` or frame form)
answers the unchanged state is the model's choice (log entry 7): R14 says the agent has no such step. That a step with no
turn left answers the unchanged state, and that TIN's turn with no byte held or a turn that raises a reset request is a
step at all, is the model's choice too (log entries 2, 7, 5). -/
def Obligations.NothingStopsTheMachine : Prop :=
  (∀ (i : Instr) (s : State), ∃ t : State, exec i s = .next t) ∧ ∀ s : State, ∃ t : State, step s = .next t

/-- The invariants of R33 under the constraints of R9: every step from a state that meets them gives one that does. -/
def Obligations.StepKeepsInvariants : Prop :=
  ∀ s t : State, Inv s → step s = .next t → Inv t

/-- The reset state meets the invariants of R33, and so does every state with no frame queued and no Result pending
whose parameters meet R9 and whose accumulator fits. -/
def Obligations.ResetMeetsInvariants : Prop :=
  Inv State.reset ∧ ∀ s : State, s.cfg.ok = true → s.cfg.rxCap.holds s.rx.length = true → s.txq = [] → s.res = none → Inv s

/-- R33 over runs: from any state that meets the invariants, under any schedule, any number of steps keeps them. -/
def Obligations.RunsKeepInvariants : Prop :=
  ∀ (n : Nat) (s t : State), Inv s → Host.Core.run Sys2Proof.core n s = .next t → Inv t

/-- R122 (d), DOC0's round-trip property with the spec's side conditions: the bytes of an encoded frame, followed by at
least one more byte when the payload is empty, delivered by `RXB` steps to an empty accumulator, make `PARSE` report
exactly the packet id and payload, and remove exactly the frame's bytes. -/
def Obligations.EncodeThenParseRoundTrip : Prop :=
  ∀ (k : Kind) (a : Word) (p tail : Bytes) (s : State), s.cfg.ok = true → p.length ≤ s.cfg.maxPay →
    s.rx = [] → s.res = none → s.addr = some a → s.expect.getLsbD k.bit = true → (p = [] → tail ≠ []) →
    (∀ n : Nat, s.cfg.rxCap = .bytes n → 11 + p.length + tail.length ≤ n) →
    runOps (rxs (encodeFrame k.pid a p ++ tail) ++ [.parse]) s = .next { s with
      rx := tail
      res := some { status := .ok, cause := 0, pid := k.pid, len := BitVec.ofNat 16 (p.length + 2), payload := p } }

/-- The whole link (R115, R121, R135, R138): what one SPF puts on the wire for an `ENC.*` operation, drained and received
byte by byte by another SPF with the same address and the kind's mask bit, is reported there as that kind and payload. -/
def Obligations.SenderToReceiver : Prop :=
  ∀ (k : Kind) (a : Word) (p : Bytes) (s r : State), p ≠ [] → s.cfg.ok = true → r.cfg.ok = true →
    p.length ≤ s.cfg.maxPay → p.length ≤ r.cfg.maxPay → s.addr = some a → r.addr = some a → s.txq = [] → r.rx = [] →
    r.res = none → r.expect.getLsbD k.bit = true →
    ∃ (u : State) (wire : Bytes),
      runOps (encInstr k p :: txbs (11 + p.length)) s = .next u ∧ u.txq = [] ∧ u.txOut = s.txOut ++ wire
      ∧ runOps (rxs wire ++ [.parse]) r = .next { r with
          rx := []
          res := some { status := .ok, cause := 0, pid := k.pid, len := BitVec.ofNat 16 (p.length + 2), payload := p } }

/-- From R193 (d): a reset request may rise after any run of agents' turns, and the reset is the step after it, before
any turn still to come: it discards a pending Result with everything else R205 names. That the request rises in a turn of
the schedule, is served in the step after it and leaves the later turns standing is the model's choice (log entry 5), as
is what the ports keep (log entry 4). -/
def Obligations.RequestOnRstMayRiseAnywhere : Prop :=
  ∀ (before after : List Turn) (s : State), s.rst = false → s.sched = before ++ .rst :: after → Turn.rst ∉ before →
    ∃ t : State, Host.Core.run Sys2Proof.core before.length s = .next t ∧ t.rst = false ∧ t.sched = .rst :: after
      ∧ Host.Core.run Sys2Proof.core (before.length + 2) s = .next { t with
          addr := none, expect := 0b0000, rx := [], txq := [], res := none, rst := false, sched := after }
end

