-- ==== Sys2Proof/Laws/Bytes.lean ====
section
/-! SUPPORT. The byte-order helpers, the places of a frame head, and the frame decoder on a frame's own bytes. -/

namespace Sys2Proof

@[simp] theorem byteAt_nil (i : Nat) : byteAt [] i = 0 := by simp [byteAt]

@[simp] theorem byteAt_cons_zero (b : Byte) (s : Bytes) : byteAt (b :: s) 0 = b := rfl

@[simp] theorem byteAt_cons_succ (b : Byte) (s : Bytes) (i : Nat) : byteAt (b :: s) (i + 1) = byteAt s i := rfl

theorem byteAt_append_left (s t : Bytes) (i : Nat) (h : i < s.length) : byteAt (s ++ t) i = byteAt s i := by
  simp [byteAt, List.getElem?_append_left h]

theorem byteAt_append_right (s t : Bytes) (i : Nat) : byteAt (s ++ t) (s.length + i) = byteAt t i := by
  simp [byteAt, List.getElem?_append_right]

@[simp] theorem be16_length (v : Half) : (be16 v).length = 2 := rfl

@[simp] theorem be32_length (v : Word) : (be32 v).length = 4 := rfl

theorem framePrefix_length (a : Word) : (framePrefix a).length = 6 := rfl

@[simp] theorem frameHead_length (pid : Byte) (a : Word) (len : Half) : (frameHead pid a len).length = headLen := rfl

/-- Reading back a big-endian 16-bit field (R13, R50). -/
@[simp] theorem u16_be16 (v : Half) : u16 (v.extractLsb' 8 8) (v.extractLsb' 0 8) = v := by
  apply BitVec.eq_of_getLsbD_eq
  intro i hi
  simp only [u16, BitVec.getLsbD_append, BitVec.getLsbD_extractLsb']
  by_cases h : i < 8
  · simp [h]
  · have h8 : i - 8 < 8 := by omega
    have : 8 + (i - 8) = i := by omega
    simp [h, h8, this]

/-- Reading back the address field (R13, R71). -/
@[simp] theorem u32_be32 (v : Word) :
    u32 (v.extractLsb' 24 8) (v.extractLsb' 16 8) (v.extractLsb' 8 8) (v.extractLsb' 0 8) = v := by
  apply BitVec.eq_of_getLsbD_eq
  intro i hi
  simp only [u32, BitVec.getLsbD_append, BitVec.getLsbD_extractLsb']
  by_cases h1 : i < 8
  · simp [h1]
  · by_cases h2 : i - 8 < 8
    · have : 8 + (i - 8) = i := by omega
      simp [h1, h2, this]
    · by_cases h3 : i - 8 - 8 < 8
      · have : 16 + (i - 8 - 8) = i := by omega
        simp [h1, h2, h3, this]
      · have h4 : i - 8 - 8 - 8 < 8 := by omega
        have : 24 + (i - 8 - 8 - 8) = i := by omega
        simp [h1, h2, h3, h4, this]

theorem u16_toNat (hi lo : Byte) : (u16 hi lo).toNat = hi.toNat * 256 + lo.toNat := by
  have h : (u16 hi lo).toNat = (hi ++ lo).toNat := rfl
  rw [h, BitVec.toNat_append, Nat.shiftLeft_eq, Nat.mul_comm, ← Nat.two_pow_add_eq_or_of_lt lo.isLt, Nat.mul_comm]

@[simp] theorem Kind.ofPid_pid (k : Kind) : Kind.ofPid k.pid = some k := by cases k <;> decide

theorem Kind.ofPid_eq_some (b : Byte) (k : Kind) : Kind.ofPid b = some k ↔ b = k.pid := by
  constructor
  · intro h
    unfold Kind.ofPid at h
    split at h
    · simp_all [← Option.some.inj h, Kind.pid]
    · split at h
      · simp_all [← Option.some.inj h, Kind.pid]
      · split at h
        · simp_all [← Option.some.inj h, Kind.pid]
        · split at h
          · simp_all [← Option.some.inj h, Kind.pid]
          · cases h
  · rintro rfl
    exact Kind.ofPid_pid k

@[simp] theorem Kind.ofCode_code (k : Kind) : Kind.ofCode k.code = k := by cases k <;> decide

@[simp] theorem accepts_pid (mask : BitVec 4) (k : Kind) : accepts mask k.pid = mask.getLsbD k.bit := by
  simp [accepts]

theorem frameHead_eq (pid : Byte) (a : Word) (len : Half) :
    frameHead pid a len = [hdr0, hdr1, a.extractLsb' 24 8, a.extractLsb' 16 8, a.extractLsb' 8 8, a.extractLsb' 0 8,
      pid, len.extractLsb' 8 8, len.extractLsb' 0 8] := rfl

@[simp] theorem byteAt_head_pid (pid : Byte) (a : Word) (len : Half) (s : Bytes) :
    byteAt (frameHead pid a len ++ s) 6 = pid := rfl

@[simp] theorem lenAt_head (pid : Byte) (a : Word) (len : Half) (s : Bytes) :
    lenAt (frameHead pid a len ++ s) = len :=
  u16_be16 len

@[simp] theorem addrAt_head (pid : Byte) (a : Word) (len : Half) (s : Bytes) :
    addrAt (frameHead pid a len ++ s) = a :=
  u32_be32 a

/-- The frame decoder reads a frame's own bytes back, whatever stands behind them (R76). -/
theorem decodeFrame_head (k : Kind) (a : Word) (len : Half) (body rest : Bytes) (h : bodyFits len body = true) :
    decodeFrame (frameHead k.pid a len ++ body ++ rest) = .ok (frameInstr k a len body) := by
  have hl : body.length = len.toNat := by simpa [bodyFits] using h
  have h0 : byteAt (frameHead k.pid a len ++ (body ++ rest)) 0 = hdr0 := rfl
  have h1 : byteAt (frameHead k.pid a len ++ (body ++ rest)) 1 = hdr1 := rfl
  have hd : (frameHead k.pid a len ++ (body ++ rest)).drop headLen = body ++ rest := rfl
  rw [List.append_assoc]
  unfold decodeFrame
  rw [if_neg (by simp), if_neg (by simp [h0, h1])]
  simp only [byteAt_head_pid, Kind.ofPid_pid, lenAt_head, addrAt_head, hd]
  rw [if_neg (by simp; omega)]
  simp [← hl]

theorem lenField_toNat (p : Bytes) (h : p.length ≤ 65533) : (lenField p).toNat = p.length + 2 := by
  simp [lenField]; omega

@[simp] theorem encodeFrame_length (pid : Byte) (a : Word) (p : Bytes) :
    (encodeFrame pid a p).length = 11 + p.length := by
  simp [encodeFrame, headLen]; omega

theorem encodeFrame_eq (pid : Byte) (a : Word) (p rest : Bytes) :
    encodeFrame pid a p ++ rest
      = frameHead pid a (lenField p) ++ (p ++ be16 (csum16 pid (lenField p) p)) ++ rest := by
  simp [encodeFrame]

theorem sumBytes_append (p q : Bytes) : sumBytes (p ++ q) = sumBytes p + sumBytes q := by
  induction p with
  | nil => simp [sumBytes]
  | cons b p ih => simp [sumBytes, ih]; omega

theorem sumBytes_eq_sum (p : Bytes) : sumBytes p = (p.map BitVec.toNat).sum := by
  induction p with
  | nil => rfl
  | cons b p ih => simp [sumBytes, ih]

end Sys2Proof
end

