-- ==== Sys2Proof/Laws/State.lean ====
section
/-! SUPPORT. One lemma per field for each named update of the state, so that no later proof unfolds a record update. -/

namespace Sys2Proof.Machine

variable (s : State)

@[simp] theorem answer_cfg (r : Reply) : (answer r s).cfg = s.cfg := rfl
@[simp] theorem answer_addr (r : Reply) : (answer r s).addr = s.addr := rfl
@[simp] theorem answer_expect (r : Reply) : (answer r s).expect = s.expect := rfl
@[simp] theorem answer_rx (r : Reply) : (answer r s).rx = s.rx := rfl
@[simp] theorem answer_txq (r : Reply) : (answer r s).txq = s.txq := rfl
@[simp] theorem answer_res (r : Reply) : (answer r s).res = s.res := rfl
@[simp] theorem answer_reply (r : Reply) : (answer r s).reply = some r := rfl
@[simp] theorem answer_rxHeld (r : Reply) : (answer r s).rxHeld = s.rxHeld := rfl
@[simp] theorem answer_txOut (r : Reply) : (answer r s).txOut = s.txOut := rfl
@[simp] theorem answer_rst (r : Reply) : (answer r s).rst = s.rst := rfl
@[simp] theorem answer_sched (r : Reply) : (answer r s).sched = s.sched := rfl

@[simp] theorem refuse_cfg (why : Reason) : (refuse why s).cfg = s.cfg := rfl
@[simp] theorem refuse_addr (why : Reason) : (refuse why s).addr = s.addr := rfl
@[simp] theorem refuse_expect (why : Reason) : (refuse why s).expect = s.expect := rfl
@[simp] theorem refuse_rx (why : Reason) : (refuse why s).rx = s.rx := rfl
@[simp] theorem refuse_txq (why : Reason) : (refuse why s).txq = s.txq := rfl
@[simp] theorem refuse_res (why : Reason) : (refuse why s).res = s.res := rfl
@[simp] theorem refuse_reply (why : Reason) : (refuse why s).reply = some (.refused why) := rfl
@[simp] theorem refuse_rxHeld (why : Reason) : (refuse why s).rxHeld = s.rxHeld := rfl
@[simp] theorem refuse_txOut (why : Reason) : (refuse why s).txOut = s.txOut := rfl
@[simp] theorem refuse_rst (why : Reason) : (refuse why s).rst = s.rst := rfl
@[simp] theorem refuse_sched (why : Reason) : (refuse why s).sched = s.sched := rfl

@[simp] theorem setAddr_cfg (a : Word) : (setAddr a s).cfg = s.cfg := rfl
@[simp] theorem setAddr_addr (a : Word) : (setAddr a s).addr = some a := rfl
@[simp] theorem setAddr_expect (a : Word) : (setAddr a s).expect = s.expect := rfl
@[simp] theorem setAddr_rx (a : Word) : (setAddr a s).rx = s.rx := rfl
@[simp] theorem setAddr_txq (a : Word) : (setAddr a s).txq = s.txq := rfl
@[simp] theorem setAddr_res (a : Word) : (setAddr a s).res = s.res := rfl
@[simp] theorem setAddr_reply (a : Word) : (setAddr a s).reply = s.reply := rfl
@[simp] theorem setAddr_rxHeld (a : Word) : (setAddr a s).rxHeld = s.rxHeld := rfl
@[simp] theorem setAddr_txOut (a : Word) : (setAddr a s).txOut = s.txOut := rfl
@[simp] theorem setAddr_rst (a : Word) : (setAddr a s).rst = s.rst := rfl
@[simp] theorem setAddr_sched (a : Word) : (setAddr a s).sched = s.sched := rfl

@[simp] theorem setExpect_cfg (m : BitVec 4) : (setExpect m s).cfg = s.cfg := rfl
@[simp] theorem setExpect_addr (m : BitVec 4) : (setExpect m s).addr = s.addr := rfl
@[simp] theorem setExpect_expect (m : BitVec 4) : (setExpect m s).expect = m := rfl
@[simp] theorem setExpect_rx (m : BitVec 4) : (setExpect m s).rx = s.rx := rfl
@[simp] theorem setExpect_txq (m : BitVec 4) : (setExpect m s).txq = s.txq := rfl
@[simp] theorem setExpect_res (m : BitVec 4) : (setExpect m s).res = s.res := rfl
@[simp] theorem setExpect_reply (m : BitVec 4) : (setExpect m s).reply = s.reply := rfl
@[simp] theorem setExpect_rxHeld (m : BitVec 4) : (setExpect m s).rxHeld = s.rxHeld := rfl
@[simp] theorem setExpect_txOut (m : BitVec 4) : (setExpect m s).txOut = s.txOut := rfl
@[simp] theorem setExpect_rst (m : BitVec 4) : (setExpect m s).rst = s.rst := rfl
@[simp] theorem setExpect_sched (m : BitVec 4) : (setExpect m s).sched = s.sched := rfl

@[simp] theorem pushRx_cfg (b : Byte) : (pushRx b s).cfg = s.cfg := rfl
@[simp] theorem pushRx_addr (b : Byte) : (pushRx b s).addr = s.addr := rfl
@[simp] theorem pushRx_expect (b : Byte) : (pushRx b s).expect = s.expect := rfl
@[simp] theorem pushRx_rx (b : Byte) : (pushRx b s).rx = s.rx ++ [b] := rfl
@[simp] theorem pushRx_txq (b : Byte) : (pushRx b s).txq = s.txq := rfl
@[simp] theorem pushRx_res (b : Byte) : (pushRx b s).res = s.res := rfl
@[simp] theorem pushRx_reply (b : Byte) : (pushRx b s).reply = s.reply := rfl
@[simp] theorem pushRx_rxHeld (b : Byte) : (pushRx b s).rxHeld = s.rxHeld := rfl
@[simp] theorem pushRx_txOut (b : Byte) : (pushRx b s).txOut = s.txOut := rfl
@[simp] theorem pushRx_rst (b : Byte) : (pushRx b s).rst = s.rst := rfl
@[simp] theorem pushRx_sched (b : Byte) : (pushRx b s).sched = s.sched := rfl

@[simp] theorem pushTx_cfg (bs : Bytes) : (pushTx bs s).cfg = s.cfg := rfl
@[simp] theorem pushTx_addr (bs : Bytes) : (pushTx bs s).addr = s.addr := rfl
@[simp] theorem pushTx_expect (bs : Bytes) : (pushTx bs s).expect = s.expect := rfl
@[simp] theorem pushTx_rx (bs : Bytes) : (pushTx bs s).rx = s.rx := rfl
@[simp] theorem pushTx_txq (bs : Bytes) : (pushTx bs s).txq = s.txq ++ bs := rfl
@[simp] theorem pushTx_res (bs : Bytes) : (pushTx bs s).res = s.res := rfl
@[simp] theorem pushTx_reply (bs : Bytes) : (pushTx bs s).reply = s.reply := rfl
@[simp] theorem pushTx_rxHeld (bs : Bytes) : (pushTx bs s).rxHeld = s.rxHeld := rfl
@[simp] theorem pushTx_txOut (bs : Bytes) : (pushTx bs s).txOut = s.txOut := rfl
@[simp] theorem pushTx_rst (bs : Bytes) : (pushTx bs s).rst = s.rst := rfl
@[simp] theorem pushTx_sched (bs : Bytes) : (pushTx bs s).sched = s.sched := rfl

@[simp] theorem postResult_cfg (r : Result) : (postResult r s).cfg = s.cfg := rfl
@[simp] theorem postResult_addr (r : Result) : (postResult r s).addr = s.addr := rfl
@[simp] theorem postResult_expect (r : Result) : (postResult r s).expect = s.expect := rfl
@[simp] theorem postResult_rx (r : Result) : (postResult r s).rx = s.rx.drop (consumed r) := rfl
@[simp] theorem postResult_txq (r : Result) : (postResult r s).txq = s.txq := rfl
@[simp] theorem postResult_res (r : Result) : (postResult r s).res = some r := rfl
@[simp] theorem postResult_reply (r : Result) : (postResult r s).reply = s.reply := rfl
@[simp] theorem postResult_rxHeld (r : Result) : (postResult r s).rxHeld = s.rxHeld := rfl
@[simp] theorem postResult_txOut (r : Result) : (postResult r s).txOut = s.txOut := rfl
@[simp] theorem postResult_rst (r : Result) : (postResult r s).rst = s.rst := rfl
@[simp] theorem postResult_sched (r : Result) : (postResult r s).sched = s.sched := rfl

@[simp] theorem releaseResult_cfg : (releaseResult s).cfg = s.cfg := rfl
@[simp] theorem releaseResult_addr : (releaseResult s).addr = s.addr := rfl
@[simp] theorem releaseResult_expect : (releaseResult s).expect = s.expect := rfl
@[simp] theorem releaseResult_rx : (releaseResult s).rx = s.rx := rfl
@[simp] theorem releaseResult_txq : (releaseResult s).txq = s.txq := rfl
@[simp] theorem releaseResult_res : (releaseResult s).res = none := rfl
@[simp] theorem releaseResult_reply : (releaseResult s).reply = s.reply := rfl
@[simp] theorem releaseResult_rxHeld : (releaseResult s).rxHeld = s.rxHeld := rfl
@[simp] theorem releaseResult_txOut : (releaseResult s).txOut = s.txOut := rfl
@[simp] theorem releaseResult_rst : (releaseResult s).rst = s.rst := rfl
@[simp] theorem releaseResult_sched : (releaseResult s).sched = s.sched := rfl

@[simp] theorem flushRx_cfg : (flushRx s).cfg = s.cfg := rfl
@[simp] theorem flushRx_addr : (flushRx s).addr = s.addr := rfl
@[simp] theorem flushRx_expect : (flushRx s).expect = s.expect := rfl
@[simp] theorem flushRx_rx : (flushRx s).rx = [] := rfl
@[simp] theorem flushRx_txq : (flushRx s).txq = s.txq := rfl
@[simp] theorem flushRx_res : (flushRx s).res = none := rfl
@[simp] theorem flushRx_reply : (flushRx s).reply = s.reply := rfl
@[simp] theorem flushRx_rxHeld : (flushRx s).rxHeld = s.rxHeld := rfl
@[simp] theorem flushRx_txOut : (flushRx s).txOut = s.txOut := rfl
@[simp] theorem flushRx_rst : (flushRx s).rst = s.rst := rfl
@[simp] theorem flushRx_sched : (flushRx s).sched = s.sched := rfl

@[simp] theorem resetElements_cfg : (resetElements s).cfg = s.cfg := rfl
@[simp] theorem resetElements_addr : (resetElements s).addr = none := rfl
@[simp] theorem resetElements_expect : (resetElements s).expect = 0 := rfl
@[simp] theorem resetElements_rx : (resetElements s).rx = [] := rfl
@[simp] theorem resetElements_txq : (resetElements s).txq = [] := rfl
@[simp] theorem resetElements_res : (resetElements s).res = none := rfl
@[simp] theorem resetElements_reply : (resetElements s).reply = s.reply := rfl
@[simp] theorem resetElements_rxHeld : (resetElements s).rxHeld = s.rxHeld := rfl
@[simp] theorem resetElements_txOut : (resetElements s).txOut = s.txOut := rfl
@[simp] theorem resetElements_rst : (resetElements s).rst = s.rst := rfl
@[simp] theorem resetElements_sched : (resetElements s).sched = s.sched := rfl

@[simp] theorem serveRst_cfg : (serveRst s).cfg = s.cfg := rfl
@[simp] theorem serveRst_addr : (serveRst s).addr = none := rfl
@[simp] theorem serveRst_expect : (serveRst s).expect = 0 := rfl
@[simp] theorem serveRst_rx : (serveRst s).rx = [] := rfl
@[simp] theorem serveRst_txq : (serveRst s).txq = [] := rfl
@[simp] theorem serveRst_res : (serveRst s).res = none := rfl
@[simp] theorem serveRst_reply : (serveRst s).reply = s.reply := rfl
@[simp] theorem serveRst_rxHeld : (serveRst s).rxHeld = s.rxHeld := rfl
@[simp] theorem serveRst_txOut : (serveRst s).txOut = s.txOut := rfl
@[simp] theorem serveRst_rst : (serveRst s).rst = false := rfl
@[simp] theorem serveRst_sched : (serveRst s).sched = s.sched := rfl

@[simp] theorem popTx_cfg : (popTx s).cfg = s.cfg := by unfold popTx; split <;> rfl
@[simp] theorem popTx_addr : (popTx s).addr = s.addr := by unfold popTx; split <;> rfl
@[simp] theorem popTx_expect : (popTx s).expect = s.expect := by unfold popTx; split <;> rfl
@[simp] theorem popTx_rx : (popTx s).rx = s.rx := by unfold popTx; split <;> rfl
@[simp] theorem popTx_res : (popTx s).res = s.res := by unfold popTx; split <;> rfl
@[simp] theorem popTx_reply : (popTx s).reply = s.reply := by unfold popTx; split <;> rfl
@[simp] theorem popTx_rxHeld : (popTx s).rxHeld = s.rxHeld := by unfold popTx; split <;> rfl
@[simp] theorem popTx_rst : (popTx s).rst = s.rst := by unfold popTx; split <;> rfl
@[simp] theorem popTx_sched : (popTx s).sched = s.sched := by unfold popTx; split <;> rfl

@[simp] theorem advance_cfg : (advance s).cfg = s.cfg := by unfold advance; split <;> rfl
@[simp] theorem advance_addr : (advance s).addr = s.addr := by unfold advance; split <;> rfl
@[simp] theorem advance_expect : (advance s).expect = s.expect := by unfold advance; split <;> rfl
@[simp] theorem advance_rx : (advance s).rx = s.rx := by unfold advance; split <;> rfl
@[simp] theorem advance_txq : (advance s).txq = s.txq := by unfold advance; split <;> rfl
@[simp] theorem advance_res : (advance s).res = s.res := by unfold advance; split <;> rfl
@[simp] theorem advance_reply : (advance s).reply = s.reply := by unfold advance; split <;> rfl
@[simp] theorem advance_txOut : (advance s).txOut = s.txOut := by unfold advance; split <;> rfl

/-- A request is up after a turn is spent iff it was up or the turn raised it. -/
@[simp] theorem advance_rst : (advance s).rst = (s.rst || decide (s.sched.head? = some .rst)) := by
  unfold advance; split <;> simp_all

theorem popTx_empty (h : s.txq = []) : popTx s = s := by unfold popTx; rw [h]

theorem popTx_cons (b : Byte) (rest : Bytes) (h : s.txq = b :: rest) :
    popTx s = { s with txq := rest, txOut := s.txOut ++ [b] } := by unfold popTx; rw [h]

/-- No byte is lost between the queue and the wire (R57 item 3). -/
theorem popTx_stream : (popTx s).txOut ++ (popTx s).txq = s.txOut ++ s.txq := by
  unfold popTx; split <;> simp_all

@[simp] theorem advance_sched : (advance s).sched = s.sched.tail := by
  unfold advance; split <;> simp_all

theorem advance_host (q : HostReq) (rest : List Turn) (h : s.sched = .host q :: rest) :
    advance s = { s with sched := rest } := by unfold advance; rw [h]

theorem advance_tin (rest : List Turn) (h : s.sched = .tin :: rest) :
    advance s = { s with sched := rest, rxHeld := if s.rxReady then s.rxHeld.tail else s.rxHeld } := by
  unfold advance; rw [h]

theorem advance_tout (rest : List Turn) (h : s.sched = .tout :: rest) :
    advance s = { s with sched := rest } := by unfold advance; rw [h]

theorem advance_val (rest : List Turn) (h : s.sched = .val :: rest) :
    advance s = { s with sched := rest } := by unfold advance; rw [h]

theorem advance_raise (rest : List Turn) (h : s.sched = .rst :: rest) :
    advance s = { s with sched := rest, rst := true } := by unfold advance; rw [h]

theorem advance_none (h : s.sched = []) : advance s = s := by unfold advance; rw [h]

end Sys2Proof.Machine
end

