-- ==== Sys2Proof/Laws/Ops.lean ====
section
/-! SUPPORT. What each shared operation can do, said once: the verdict on a frame, the validator's step in both its forms,
the encode step, and the handshakes. -/

namespace Sys2Proof.Machine

/-! ### The cause bits and the verdict -/

@[simp] theorem causeBits_prefix (p q r : Bool) : (causeBits p q r).getLsbD 0 = p := by
  cases p <;> cases q <;> cases r <;> decide

@[simp] theorem causeBits_pid (p q r : Bool) : (causeBits p q r).getLsbD 1 = q := by
  cases p <;> cases q <;> cases r <;> decide

@[simp] theorem causeBits_len (p q r : Bool) : (causeBits p q r).getLsbD 2 = r := by
  cases p <;> cases q <;> cases r <;> decide

theorem causeBits_eq_zero (p q r : Bool) : causeBits p q r = 0 ↔ p = false ∧ q = false ∧ r = false := by
  cases p <;> cases q <;> cases r <;> decide

theorem verdict_corrupted (c : BitVec 3) (pid : Byte) (len : Half) (p : Bytes) (rc : Half) (h : c ≠ 0) :
    verdict c pid len p rc = { status := .corrupted, cause := c, pid := pid, len := len, payload := [] } :=
  if_pos h

theorem verdict_checksum (pid : Byte) (len : Half) (p : Bytes) (rc : Half) (h : rc ≠ csum16 pid len p) :
    verdict 0 pid len p rc = { status := .checksum, cause := 0, pid := pid, len := len, payload := [] } := by
  simp [verdict, h]

theorem verdict_ok (pid : Byte) (len : Half) (p : Bytes) :
    verdict 0 pid len p (csum16 pid len p) = { status := .ok, cause := 0, pid := pid, len := len, payload := p } := by
  simp [verdict]

/-- Everything a verdict can be. -/
theorem verdict_cases (c : BitVec 3) (pid : Byte) (len : Half) (p : Bytes) (rc : Half) :
    (c ≠ 0 ∧ verdict c pid len p rc = { status := .corrupted, cause := c, pid := pid, len := len, payload := [] })
    ∨ (c = 0 ∧ rc ≠ csum16 pid len p
        ∧ verdict c pid len p rc = { status := .checksum, cause := 0, pid := pid, len := len, payload := [] })
    ∨ (c = 0 ∧ rc = csum16 pid len p
        ∧ verdict c pid len p rc = { status := .ok, cause := 0, pid := pid, len := len, payload := p }) := by
  unfold verdict
  by_cases h : c = 0
  · by_cases h2 : rc = csum16 pid len p
    · simp [h, h2]
    · simp [h, h2]
  · exact .inl ⟨h, if_pos h⟩

@[simp] theorem verdict_pid (c : BitVec 3) (pid : Byte) (len : Half) (p : Bytes) (rc : Half) :
    (verdict c pid len p rc).pid = pid := by
  rcases verdict_cases c pid len p rc with ⟨-, h⟩ | ⟨-, -, h⟩ | ⟨-, -, h⟩ <;> rw [h]

@[simp] theorem verdict_len (c : BitVec 3) (pid : Byte) (len : Half) (p : Bytes) (rc : Half) :
    (verdict c pid len p rc).len = len := by
  rcases verdict_cases c pid len p rc with ⟨-, h⟩ | ⟨-, -, h⟩ | ⟨-, -, h⟩ <;> rw [h]

theorem consumed_ok (r : Result) (h : r.status = .ok) : consumed r = r.len.toNat + 9 := by
  simp [consumed, h, frameTotal, headLen]

theorem consumed_not_ok (r : Result) (h : r.status ≠ .ok) : consumed r = 0 := by
  unfold consumed
  cases hs : r.status <;> simp_all

theorem postResult_not_ok (r : Result) (s : State) (h : r.status ≠ .ok) :
    postResult r s = { s with res := some r } := by
  simp [postResult, consumed_not_ok r h]

/-! ### Capacities -/

theorem holds_iff (c : Cap) (n : Nat) : c.holds n = true ↔ ∀ m, c = .bytes m → n ≤ m := by
  cases c <;> simp [Cap.holds]

theorem holds_mono (c : Cap) (m n : Nat) (h : m ≤ n) (hn : c.holds n = true) : c.holds m = true := by
  rw [holds_iff] at *
  exact fun k hk => Nat.le_trans h (hn k hk)

theorem config_ok_iff (c : Config) : c.ok = true ↔
    c.maxPay ≤ 65533 ∧ c.rxCap.holds 12 = true ∧ c.rxCap.holds (c.maxPay + 11) = true
      ∧ c.txCap.holds (c.maxPay + 11) = true := by
  simp [Config.ok, parseFloor, overhead, and_assoc]

/-! ### The validator -/

theorem lenBad_eq_false (cfg : Config) (len : Half) :
    lenBad cfg len = false ↔ 2 ≤ len.toNat ∧ len.toNat - 2 ≤ cfg.maxPay := by
  simp only [lenBad, Bool.or_eq_false_iff, decide_eq_false_iff_not]; omega

theorem frameComplete_iff (cfg : Config) (rx : Bytes) : frameComplete cfg rx = true ↔
    lenBad cfg (lenAt rx) = true ∨ (lenAt rx).toNat + 9 ≤ rx.length := by
  simp only [frameComplete, Bool.or_eq_true, decide_eq_true_eq]
  exact Iff.rfl

theorem parseEnabled_iff (s : State) : s.parseEnabled = true ↔
    s.res = none ∧ s.expect ≠ 0 ∧ s.addr ≠ none ∧ 12 ≤ s.rx.length ∧ frameComplete s.cfg s.rx = true := by
  simp only [State.parseEnabled, Bool.and_eq_true, decide_eq_true_eq, Option.isNone_iff_eq_none,
    Option.isSome_iff_ne_none, bne_iff_ne, and_assoc]
  exact Iff.rfl

theorem frameEnabled_iff (s : State) (bs : Bytes) : s.frameEnabled bs = true ↔
    s.res = none ∧ s.expect ≠ 0 ∧ s.addr ≠ none ∧ 12 ≤ s.rx.length ∧ bs <+: s.rx := by
  simp only [State.frameEnabled, Bool.and_eq_true, decide_eq_true_eq, Option.isNone_iff_eq_none,
    Option.isSome_iff_ne_none, bne_iff_ne, List.isPrefixOf_iff_prefix, and_assoc]
  exact Iff.rfl

/-- Everything `PARSE` can do. -/
theorem execParse_cases (s : State) :
    (s.parseEnabled = false ∧ execParse s = .next s)
    ∨ ∃ a, s.addr = some a ∧ s.parseEnabled = true
        ∧ execParse s = .next (postResult (examine s.cfg a s.expect s.rx) s) := by
  unfold execParse
  cases h : s.addr with
  | none => simp [State.parseEnabled, h]
  | some a => cases hp : s.parseEnabled <;> simp

theorem execParse_enabled (s : State) (a : Word) (ha : s.addr = some a) (h : s.parseEnabled = true) :
    execParse s = .next (postResult (examine s.cfg a s.expect s.rx) s) := by
  simp [execParse, ha, h]

theorem execParse_disabled (s : State) (h : s.parseEnabled = false) : execParse s = .next s := by
  rcases execParse_cases s with ⟨-, e⟩ | ⟨a, -, e, -⟩
  · exact e
  · rw [h] at e; cases e

/-- Everything a frame form can do. -/
theorem frameStep_cases (k : Kind) (addr : Word) (len : Half) (body : Bytes) (s : State) :
    frameStep k addr len body s = s
    ∨ ∃ a, s.addr = some a ∧ s.frameEnabled (frameBytes k addr len body) = true ∧ body.length = len.toNat
        ∧ frameStep k addr len body s = postResult (examineFrame s.cfg a s.expect k addr len body) s := by
  unfold frameStep
  cases h : s.addr with
  | none => simp
  | some a =>
    cases hf : s.frameEnabled (frameBytes k addr len body) <;> cases hb : bodyFits len body <;> simp
    right
    simpa [bodyFits] using hb

theorem frameStep_enabled (k : Kind) (addr a : Word) (len : Half) (body : Bytes) (s : State) (ha : s.addr = some a)
    (hf : s.frameEnabled (frameBytes k addr len body) = true) (hb : body.length = len.toNat) :
    frameStep k addr len body s = postResult (examineFrame s.cfg a s.expect k addr len body) s := by
  simp [frameStep, ha, hf, bodyFits, hb]

/-- The four frame forms are one step, by kind. -/
theorem exec_frameInstr (k : Kind) (addr : Word) (len : Half) (body : Bytes) (s : State) :
    exec (frameInstr k addr len body) s = .next (frameStep k addr len body s) := by
  cases k <;> rfl

/-! ### The encoder -/

/-- The four encode operations are one step, by kind. -/
theorem exec_encInstr (k : Kind) (p : Bytes) (s : State) :
    exec (encInstr k p) s = .next (encodeInto k p s) := by
  cases k <;> rfl

/-- Everything `ENC.*` can do, in the order of its tests. -/
theorem encodeInto_cases (k : Kind) (p : Bytes) (s : State) :
    (s.addr = none ∧ encodeInto k p s = refuse .unconfigured s)
    ∨ ∃ a, s.addr = some a ∧
      ((s.cfg.maxPay < p.length ∧ encodeInto k p s = refuse .payloadTooLong s)
      ∨ (p.length ≤ s.cfg.maxPay ∧ s.cfg.txCap.holds (s.txq.length + 11 + p.length) = false
          ∧ encodeInto k p s = refuse .txFull s)
      ∨ (p.length ≤ s.cfg.maxPay ∧ s.cfg.txCap.holds (s.txq.length + 11 + p.length) = true
          ∧ encodeInto k p s = answer .done (pushTx (encodeFrame k.pid a p) s))) := by
  unfold encodeInto
  cases h : s.addr with
  | none => simp
  | some a =>
    by_cases h1 : s.cfg.maxPay < p.length
    · simp [h1]
    · cases h2 : s.cfg.txCap.holds (s.txq.length + 11 + p.length) <;> simp [h1, h2, overhead, Nat.not_lt.mp h1]

/-! ### Bytes in -/

theorem rxReady_iff (s : State) : s.rxReady = true ↔ ∀ n, s.cfg.rxCap = .bytes n → s.rx.length < n := by
  simp [State.rxReady, holds_iff]

theorem execRxb_cases (b : Byte) (s : State) :
    (s.rxReady = true ∧ execRxb b s = .next (pushRx b s)) ∨ (s.rxReady = false ∧ execRxb b s = .next s) := by
  unfold execRxb
  cases h : s.rxReady <;> simp

/-! ### The environment -/

/-- No operation touches what is the environment's: the turns to come, the `rst` port, and the bytes the transport
holds. Only a turn being spent does (`advance`). -/
theorem exec_environment (i : Instr) (s t : State) (h : exec i s = .next t) :
    t.sched = s.sched ∧ t.rst = s.rst ∧ t.rxHeld = s.rxHeld := by
  have frame (k : Kind) (addr : Word) (len : Half) (body : Bytes) : (frameStep k addr len body s).sched = s.sched
      ∧ (frameStep k addr len body s).rst = s.rst ∧ (frameStep k addr len body s).rxHeld = s.rxHeld := by
    rcases frameStep_cases k addr len body s with e | ⟨_, -, -, -, e⟩ <;> simp [e]
  have enc (k : Kind) (p : Bytes) : (encodeInto k p s).sched = s.sched ∧ (encodeInto k p s).rst = s.rst
      ∧ (encodeInto k p s).rxHeld = s.rxHeld := by
    rcases encodeInto_cases k p s with ⟨-, e⟩ | ⟨_, -, ⟨-, e⟩ | ⟨-, -, e⟩ | ⟨-, -, e⟩⟩ <;> simp [e]
  cases i with
  | frameCmd | frameDat | frameAck | frameEnd => cases h; exact frame ..
  | encCmd | encDat | encAck | encEnd => cases h; exact enc ..
  | txb => cases h; exact ⟨popTx_sched s, popTx_rst s, popTx_rxHeld s⟩
  | rdaddr => simp only [exec, execRdaddr] at h; split at h <;> cases h <;> simp
  | csum => simp only [exec, execCsum] at h; split at h <;> cases h <;> simp
  | take => simp only [exec, execTake] at h; split at h <;> cases h <;> simp
  | rxb b => rcases execRxb_cases b s with ⟨-, e⟩ | ⟨-, e⟩ <;> cases e.symm.trans h <;> simp
  | parse => rcases execParse_cases s with ⟨-, e⟩ | ⟨_, -, -, e⟩ <;> cases e.symm.trans h <;> simp
  | _ => cases h; exact ⟨rfl, rfl, rfl⟩

end Sys2Proof.Machine
end

