-- ==== Sys2Proof/Laws/PerInstr.lean ====
section
/-! SUPPORT. Per-instruction lemmas. Family `FixedBits`: the word of an operation carries the fixed bits its row of the
opcode table gives it (R70, R84), and a word without fixed bits carries only its operand (R85). -/

namespace Sys2Proof.Laws

/-- A host-port word with operation number `n` (R84). -/
def carriesOp (n : BitVec 4) : PortWord → Prop
  | .op q => q.op = n
  | .rxByte _ => False
  | .txTake => False
  | .frame _ => False

/-- A frame whose header and packet id are the row's (R70, R152 to R155), with a whole head. -/
def carriesFrame (pid : Byte) : PortWord → Prop
  | .op _ => False
  | .rxByte _ => False
  | .txTake => False
  | .frame bs => bs.take 2 = [0xEF, 0x01] ∧ byteAt bs 6 = pid ∧ headLen ≤ bs.length

/-- The fixed bits of each row. -/
def FixedBits.Statement (i : Instr) : Prop :=
  match i with
  | .frameCmd _ _ _ => carriesFrame 0x01 (encode i)
  | .frameDat _ _ _ => carriesFrame 0x02 (encode i)
  | .frameAck _ _ _ => carriesFrame 0x07 (encode i)
  | .frameEnd _ _ _ => carriesFrame 0x08 (encode i)
  | .rdstat => carriesOp 0x0 (encode i)
  | .rdaddr => carriesOp 0x1 (encode i)
  | .wraddr _ => carriesOp 0x2 (encode i)
  | .rdexp => carriesOp 0x3 (encode i)
  | .wrexp _ => carriesOp 0x4 (encode i)
  | .csum _ _ => carriesOp 0x5 (encode i)
  | .take => carriesOp 0x6 (encode i)
  | .flush => carriesOp 0x7 (encode i)
  | .encCmd _ => carriesOp 0x8 (encode i)
  | .encDat _ => carriesOp 0x9 (encode i)
  | .encAck _ => carriesOp 0xA (encode i)
  | .encEnd _ => carriesOp 0xB (encode i)
  | .reservedC => carriesOp 0xC (encode i)
  | .reservedD => carriesOp 0xD (encode i)
  | .reservedE => carriesOp 0xE (encode i)
  | .reset => carriesOp 0xF (encode i)
  | .rxb b => encode i = .rxByte b
  | .txb => encode i = .txTake
  | .parse => encode i = .frame []

theorem FixedBits.frameCmd (addr : Word) (len : Half) (body : Bytes) : FixedBits.Statement (.frameCmd addr len body) :=
  ⟨rfl, rfl, by simp [frameBytes]⟩

theorem FixedBits.frameDat (addr : Word) (len : Half) (body : Bytes) : FixedBits.Statement (.frameDat addr len body) :=
  ⟨rfl, rfl, by simp [frameBytes]⟩

theorem FixedBits.frameAck (addr : Word) (len : Half) (body : Bytes) : FixedBits.Statement (.frameAck addr len body) :=
  ⟨rfl, rfl, by simp [frameBytes]⟩

theorem FixedBits.frameEnd (addr : Word) (len : Half) (body : Bytes) : FixedBits.Statement (.frameEnd addr len body) :=
  ⟨rfl, rfl, by simp [frameBytes]⟩

theorem FixedBits.rdstat : FixedBits.Statement .rdstat :=
  rfl

theorem FixedBits.rdaddr : FixedBits.Statement .rdaddr :=
  rfl

theorem FixedBits.wraddr (a : Word) : FixedBits.Statement (.wraddr a) :=
  rfl

theorem FixedBits.rdexp : FixedBits.Statement .rdexp :=
  rfl

theorem FixedBits.wrexp (m : BitVec 4) : FixedBits.Statement (.wrexp m) :=
  rfl

theorem FixedBits.csum (k : Kind) (p : Bytes) : FixedBits.Statement (.csum k p) :=
  rfl

theorem FixedBits.take : FixedBits.Statement .take :=
  rfl

theorem FixedBits.flush : FixedBits.Statement .flush :=
  rfl

theorem FixedBits.encCmd (p : Bytes) : FixedBits.Statement (.encCmd p) :=
  rfl

theorem FixedBits.encDat (p : Bytes) : FixedBits.Statement (.encDat p) :=
  rfl

theorem FixedBits.encAck (p : Bytes) : FixedBits.Statement (.encAck p) :=
  rfl

theorem FixedBits.encEnd (p : Bytes) : FixedBits.Statement (.encEnd p) :=
  rfl

theorem FixedBits.reservedC : FixedBits.Statement .reservedC :=
  rfl

theorem FixedBits.reservedD : FixedBits.Statement .reservedD :=
  rfl

theorem FixedBits.reservedE : FixedBits.Statement .reservedE :=
  rfl

theorem FixedBits.reset : FixedBits.Statement .reset :=
  rfl

theorem FixedBits.rxb (b : Byte) : FixedBits.Statement (.rxb b) :=
  rfl

theorem FixedBits.txb : FixedBits.Statement .txb :=
  rfl

theorem FixedBits.parse : FixedBits.Statement .parse :=
  rfl

end Sys2Proof.Laws
end

