-- ==== Sys2Proof/Tests/Slice0.lean ====
section
/-! SUPPORT. The model's own tests: ill-formed terms refused, words written out from the spec's encodings decoded, one
step against the vectors of 95_test_vectors.md (their ids in the comments), and for every statement with hypotheses a
witness that meets them together. -/

namespace Sys2Proof.Tests

open Sys2Proof Sys2Proof.Machine

/-! ### Helpers -/

/-- A configured state with the default parameters. -/
def st (a : Word) (e : BitVec 4) (rx : Bytes) : State :=
  { State.reset with addr := some a, expect := e, rx := rx }

/-- The least parameters of V-C13, V-E16, V-D30: `MAXPAY = 13`, both capacities 24. -/
def tight : Config :=
  { maxPay := 13, rxCap := .bytes 24, txCap := .bytes 24 }

/-- The next state of an outcome. -/
def nx : Host.Outcome State Fault Refusal → Option State
  | .next s => some s
  | .fault _ => none
  | .refused _ => none

/-- F0, the frame of V-E1. -/
def f0 : Bytes :=
  [0xEF, 0x01, 0xFF, 0xFF, 0xFF, 0xFF, 0x07, 0x00, 0x03, 0x00, 0x00, 0x0A]

/-- F1, the frame of V-E6. -/
def f1 : Bytes :=
  [0xEF, 0x01, 0x12, 0x34, 0x56, 0x78, 0x02, 0x00, 0x06, 0xDE, 0xAD, 0xBE, 0xEF, 0x03, 0x40]

/-- The frame of V-E7, an empty EndOfData. -/
def f7 : Bytes :=
  [0xEF, 0x01, 0xFF, 0xFF, 0xFF, 0xFF, 0x08, 0x00, 0x02, 0x00, 0x0A]

/-- The frame of V-E2. -/
def fe2 : Bytes :=
  [0xEF, 0x01, 0xFF, 0xFF, 0xFF, 0xFF, 0x01, 0x00, 0x03, 0xAA, 0x00, 0xAE]

/-- The Result of V-D1. -/
def r0 : Result :=
  { status := .ok, cause := 0, pid := 0x07, len := 3, payload := [0x00] }

/-- A `CORRUPTED` Result. -/
def bad (c : BitVec 3) (pid : Byte) (len : Half) : Result :=
  { status := .corrupted, cause := c, pid := pid, len := len, payload := [] }

/-- A `CHECKSUM` Result. -/
def sumBad (pid : Byte) (len : Half) : Result :=
  { status := .checksum, cause := 0, pid := pid, len := len, payload := [] }

/-- `res` and `rx` after one step of an operation. -/
def after (i : Instr) (s : State) : Option (Option Result × Bytes) :=
  (nx (exec i s)).map fun t => (t.res, t.rx)

/-- The reply after one step of an operation. -/
def replied (i : Instr) (s : State) : Option Reply :=
  (nx (exec i s)).bind fun t => t.reply

/-- `txq` after one step of an operation. -/
def queued (i : Instr) (s : State) : Option Bytes :=
  (nx (exec i s)).map fun t => t.txq

/-- A host-port transaction with number `n` and lanes that only some operations read. -/
def req (n : BitVec 4) : HostReq :=
  { op := n, a := 0x12345678, m := 0b1010, k := 0b10, p := [0xAA] }

/-! ### Well-formedness refuses -/

theorem test_wf_refuses_frameCmd_short : (Instr.frameCmd 0 3 [0x00, 0x00]).wf = false := by decide
theorem test_wf_refuses_frameDat_long : (Instr.frameDat 0 2 [0x00, 0x00, 0x00]).wf = false := by decide
theorem test_wf_refuses_frameAck_empty : (Instr.frameAck 0 1 []).wf = false := by decide
theorem test_wf_refuses_frameEnd_body : (Instr.frameEnd 0 0 [0x00]).wf = false := by decide

/-! ### Decoding, each word written out from R70, R84, R85 -/

theorem test_decode_frameCmd : decode (.frame (fe2 ++ [0xEF])) = .frameCmd 0xFFFFFFFF 3 [0xAA, 0x00, 0xAE] := by decide
theorem test_decode_frameDat : decode (.frame f1) = .frameDat 0x12345678 6 [0xDE, 0xAD, 0xBE, 0xEF, 0x03, 0x40] := by decide
theorem test_decode_frameAck : decode (.frame f0) = .frameAck 0xFFFFFFFF 3 [0x00, 0x00, 0x0A] := by decide
theorem test_decode_frameEnd : decode (.frame f7) = .frameEnd 0xFFFFFFFF 2 [0x00, 0x0A] := by decide
theorem test_decode_rdstat : decode (.op (req 0b0000)) = .rdstat := by decide
theorem test_decode_rdaddr : decode (.op (req 0b0001)) = .rdaddr := by decide
theorem test_decode_wraddr : decode (.op (req 0b0010)) = .wraddr 0x12345678 := by decide
theorem test_decode_rdexp : decode (.op (req 0b0011)) = .rdexp := by decide
theorem test_decode_wrexp : decode (.op (req 0b0100)) = .wrexp 0b1010 := by decide
theorem test_decode_csum : decode (.op (req 0b0101)) = .csum .ack [0xAA] := by decide
theorem test_decode_take : decode (.op (req 0b0110)) = .take := by decide
theorem test_decode_flush : decode (.op (req 0b0111)) = .flush := by decide
theorem test_decode_encCmd : decode (.op (req 0b1000)) = .encCmd [0xAA] := by decide
theorem test_decode_encDat : decode (.op (req 0b1001)) = .encDat [0xAA] := by decide
theorem test_decode_encAck : decode (.op (req 0b1010)) = .encAck [0xAA] := by decide
theorem test_decode_encEnd : decode (.op (req 0b1011)) = .encEnd [0xAA] := by decide
theorem test_decode_reservedC : decode (.op (req 0b1100)) = .reservedC := by decide
theorem test_decode_reservedD : decode (.op (req 0b1101)) = .reservedD := by decide
theorem test_decode_reservedE : decode (.op (req 0b1110)) = .reservedE := by decide
theorem test_decode_reset : decode (.op (req 0b1111)) = .reset := by decide
theorem test_decode_rxb : decode (.rxByte 0xEF) = .rxb 0xEF := by decide
theorem test_decode_txb : decode .txTake = .txb := by decide
theorem test_decode_parse : decode (.frame [0xEF, 0x01]) = .parse := by decide

/-- The match values of the FRAME rows, as 72-bit numbers (95_test_vectors.md 2.3). -/
theorem test_table_frames :
    decodeTableWord 72 0xEF0100000000010000 = some (.frameCmd 0 0 [])
      ∧ decodeTableWord 72 0xEF01FFFFFFFF070003 = some (.frameAck 0xFFFFFFFF 3 [0, 0, 0])
      ∧ decodeTableWord 72 0xEF0100000000050000 = none := by decide
theorem test_table_ops : decodeTableWord 8 0x6 = some .take ∧ decodeTableWord 8 0xFF = some (.rxb 0xFF)
    ∧ decodeTableWord 0 0 = some .parse := by decide
theorem test_reject_names : decodeFrame [0xEF] = .error .shortHead
    ∧ decodeFrame [0xEF, 0x00, 0, 0, 0, 0, 0x07, 0, 0] = .error .badHeader
    ∧ decodeFrame [0xEF, 0x01, 0, 0, 0, 0, 0x05, 0, 0] = .error (.badPid 0x05)
    ∧ decodeFrame [0xEF, 0x01, 0, 0, 0, 0, 0x07, 0, 1] = .error .shortBody := by
  exact ⟨rfl, rfl, rfl, rfl⟩

/-- A reset with a host word placed runs it in the next step. -/
theorem test_first_step_runs_word :
    ((nx (step (State.reset.withFetchWord 8 0x3))).bind fun t => t.reply) = some (.mask 0b0000) := by decide

/-! ### CSUM -/

/-- V-C1, V-C14 -/
theorem test_csum_ack : replied (.csum .ack [0x00]) State.reset = some (.sum 0x000A) := by decide
/-- V-C6, V-C13 -/
theorem test_csum_limits : replied (.csum .ack [0, 0, 0x20, 0, 3]) State.reset = some (.sum 0x0031)
    ∧ replied (.csum .dat (List.replicate 14 0)) { State.reset with cfg := tight } = some (.refused .payloadTooLong) := by decide

/-! ### ENC, TXB -/

/-- V-E2 -/
theorem test_encCmd : queued (.encCmd [0xAA]) (st 0xFFFFFFFF 0 []) = some fe2 := by decide
/-- V-E5: address most significant byte first -/
theorem test_encCmd_order : queued (.encCmd [0xAA, 0xBB]) (st 0x01020304 0 [])
    = some [0xEF, 0x01, 0x01, 0x02, 0x03, 0x04, 0x01, 0x00, 0x04, 0xAA, 0xBB, 0x01, 0x6A] := by decide
/-- V-E6 -/
theorem test_encDat : queued (.encDat [0xDE, 0xAD, 0xBE, 0xEF]) (st 0x12345678 0 []) = some f1 := by decide
/-- V-E16, V-E20 -/
theorem test_encDat_refused : replied (.encDat (List.replicate 14 0))
    { st 0xFFFFFFFF 0 [] with cfg := tight, txq := fe2 ++ fe2 } = some (.refused .payloadTooLong) := by decide
/-- V-E11 -/
theorem test_encAck : queued (.encAck [0x00, 0x00, 0x20, 0x00, 0x03]) (st 0xFFFFFFFF 0 [])
    = some [0xEF, 0x01, 0xFF, 0xFF, 0xFF, 0xFF, 0x07, 0x00, 0x07, 0x00, 0x00, 0x20, 0x00, 0x03, 0x00, 0x31] := by decide
/-- V-E17, V-E18: 24 queued bytes leave no room for 12 more, 12 do -/
theorem test_encAck_full :
    replied (.encAck [0xAA]) { st 0xFFFFFFFF 0 [] with cfg := tight, txq := fe2 ++ fe2 } = some (.refused .txFull)
      ∧ replied (.encAck [0xAA]) { st 0xFFFFFFFF 0 [] with cfg := tight, txq := fe2 } = some .done := by decide
/-- V-E7 -/
theorem test_encEnd : queued (.encEnd []) (st 0xFFFFFFFF 0 []) = some f7 := by decide
/-- V-E15, V-E19 -/
theorem test_encEnd_unconfigured : replied (.encEnd (List.replicate 14 0)) { State.reset with cfg := tight }
    = some (.refused .unconfigured) := by decide
/-- R121's example -/
theorem test_txb : (nx (exec .txb { State.reset with txq := [0xEF, 0x01, 0xFF] })).map (fun t => (t.txq, t.txOut))
    = some ([0x01, 0xFF], [0xEF]) := by decide

/-! ### RXB, PARSE, FRAME forms, TAKE, FLUSH -/

/-- V-D29 -/
theorem test_rxb : after (.rxb 0xFF) (st 0 0 [0xEF, 0x01]) = some (none, [0xEF, 0x01, 0xFF]) := by decide
/-- V-D30 -/
theorem test_rxb_full : after (.rxb 0xFF) { st 0 0 (List.replicate 24 0) with cfg := tight }
    = some (none, List.replicate 24 0) := by decide
/-- V-D1, V-D10, V-D18 -/
theorem test_parse_accepts : after .parse (st 0xFFFFFFFF 0b0100 f0) = some (some r0, [])
    ∧ after .parse (st 0xFFFFFFFF 0b1010 (f7 ++ [0xEF]))
      = some (some { status := .ok, cause := 0, pid := 0x08, len := 2, payload := [] }, [0xEF])
    ∧ after .parse (st 0xFFFFFFFF 0b0100 (f0 ++ fe2)) = some (some r0, fe2) := by decide
/-- V-D2, V-D4, V-D9, V-D19: nothing examined -/
theorem test_parse_defers : after .parse (st 0xFFFFFFFF 0b0100 (f0.take 11)) = some (none, f0.take 11)
    ∧ after .parse (st 0x12345678 0b1010 (f1.take 14)) = some (none, f1.take 14)
    ∧ after .parse (st 0xFFFFFFFF 0b1010 f7) = some (none, f7)
    ∧ after .parse (st 0xFFFFFFFF 0b0000 f0) = some (none, f0) := by decide
/-- V-D17, V-D16, V-D15, V-D13, V-D14: the cause bits -/
theorem test_parse_causes : after .parse (st 0xFFFFFFFF 0b0100 (List.replicate 12 0)) = some (some (bad 7 0 0), List.replicate 12 0)
    ∧ ((after .parse (st 0xFFFFFFFF 0b0100 [0xEF, 1, 0xFF, 0xFF, 0xFF, 0xFF, 9, 0, 1, 0, 0, 0])).map Prod.fst) = some (some (bad 6 9 1))
    ∧ ((after .parse (st 0xFFFFFFFF 0b0100 [0xEF, 1, 0x12, 0x34, 0x56, 0x78, 2, 0, 3, 1, 0, 6])).map Prod.fst) = some (some (bad 3 2 3))
    ∧ ((after .parse (st 0xFFFFFFFF 0b1111 [0xEF, 1, 0xFF, 0xFF, 0xFF, 0xFF, 5, 0, 3, 0, 0, 8])).map Prod.fst) = some (some (bad 2 5 3))
    ∧ ((after .parse (st 0xFFFFFFFF 0b0100 [0xEE, 1, 0xFF, 0xFF, 0xFF, 0xFF, 7, 0, 3, 0, 0, 0])).map Prod.fst) = some (some (bad 1 7 3)) := by decide
/-- V-D21: a long length is an error only above `MAXPAY` -/
theorem test_parse_long_length :
    after .parse { st 0xFFFFFFFF 0b0100 [0xEF, 1, 0xFF, 0xFF, 0xFF, 0xFF, 7, 1, 3, 0, 0, 0x0A] with
        cfg := { maxPay := 256, rxCap := .inf, txCap := .inf } }
      = some (some (bad 4 7 259), [0xEF, 1, 0xFF, 0xFF, 0xFF, 0xFF, 7, 1, 3, 0, 0, 0x0A])
    ∧ after .parse { st 0xFFFFFFFF 0b0100 [0xEF, 1, 0xFF, 0xFF, 0xFF, 0xFF, 7, 1, 3, 0, 0, 0x0A] with
        cfg := { maxPay := 257, rxCap := .inf, txCap := .inf } }
      = some (none, [0xEF, 1, 0xFF, 0xFF, 0xFF, 0xFF, 7, 1, 3, 0, 0, 0x0A]) := by decide
/-- V-D25, V-D26 -/
theorem test_frameCmd : after (.frameCmd 0xFFFFFFFF 3 [0xAA, 0x00, 0xAE]) (st 0xFFFFFFFF 0b1111 fe2)
      = some (some { status := .ok, cause := 0, pid := 0x01, len := 3, payload := [0xAA] }, [])
    ∧ after (.frameCmd 0xFFFFFFFF 3 [0xAA, 0x00, 0xAE]) (st 0xFFFFFFFF 0b1110 fe2) = some (some (bad 2 1 3), fe2) := by decide
/-- V-D3, V-D5, V-D6 -/
theorem test_frameDat :
    after (.frameDat 0x12345678 6 [0xDE, 0xAD, 0xBE, 0xEF, 0x03, 0x40]) (st 0x12345678 0b1010 f1)
      = some (some { status := .ok, cause := 0, pid := 0x02, len := 6, payload := [0xDE, 0xAD, 0xBE, 0xEF] }, [])
    ∧ after (.frameDat 0x12345678 6 [0xDE, 0xAD, 0xBE, 0xEF, 0x03, 0x40]) (st 0xFFFFFFFF 0b1010 f1) = some (some (bad 1 2 6), f1)
    ∧ after (.frameDat 0x12345678 6 [0xDE, 0xAD, 0xBE, 0xEF, 0x03, 0x40]) (st 0x12345678 0b0100 f1) = some (some (bad 2 2 6), f1) := by decide
/-- V-D7 -/
theorem test_frameDat_checksum :
    after (.frameDat 0x12345678 6 [0xDE, 0xBD, 0xBE, 0xEF, 0x03, 0x40])
        (st 0x12345678 0b1010 [0xEF, 0x01, 0x12, 0x34, 0x56, 0x78, 0x02, 0x00, 0x06, 0xDE, 0xBD, 0xBE, 0xEF, 0x03, 0x40])
      = some (some (sumBad 2 6), [0xEF, 0x01, 0x12, 0x34, 0x56, 0x78, 0x02, 0x00, 0x06, 0xDE, 0xBD, 0xBE, 0xEF, 0x03, 0x40]) := by decide
/-- V-D1 -/
theorem test_frameAck : after (.frameAck 0xFFFFFFFF 3 [0, 0, 0x0A]) (st 0xFFFFFFFF 0b0100 f0) = some (some r0, []) := by decide
/-- V-D9, V-D10 -/
theorem test_frameEnd : after (.frameEnd 0xFFFFFFFF 2 [0, 0x0A]) (st 0xFFFFFFFF 0b1010 f7) = some (none, f7)
    ∧ after (.frameEnd 0xFFFFFFFF 2 [0, 0x0A]) (st 0xFFFFFFFF 0b1010 (f7 ++ [0xEF]))
      = some (some { status := .ok, cause := 0, pid := 0x08, len := 2, payload := [] }, [0xEF]) := by decide
/-- V-D31, V-D32 -/
theorem test_take : replied .take { st 0 0 [] with res := some r0 } = some (.result r0)
    ∧ after .take { st 0 0 [1] with res := some r0 } = some (none, [1])
    ∧ replied .take (st 0 0 []) = some (.refused .noResult) := by decide
/-- V-D33 -/
theorem test_flush : after .flush { st 0 0 f1 with res := some (bad 1 2 6), txq := f0 } = some (none, [])
    ∧ queued .flush { st 0 0 f1 with res := some (bad 1 2 6), txq := f0 } = some f0 := by decide

/-! ### CFG (95_test_vectors.md 2.4) -/

theorem test_wraddr : (nx (exec (.wraddr 0xFFFFFFFF) { State.reset with txq := f1 })).map (fun t => (t.addr, t.txq))
    = some (some 0xFFFFFFFF, f1) := by decide
theorem test_rdaddr : replied .rdaddr State.reset = some (.refused .unconfigured)
    ∧ replied .rdaddr (st 0x12345678 0 []) = some (.addr 0x12345678) := by decide
theorem test_wrexp : (nx (exec (.wrexp 0b0110) State.reset)).map (fun t => t.expect) = some 0b0110 := by decide
theorem test_rdexp : replied .rdexp (st 0 0b1010 []) = some (.mask 0b1010) := by decide
theorem test_rdstat : replied .rdstat { st 0x12345678 0 [0xEF, 0x01, 0x12] with txq := f0 }
    = some (.status { rvalid := false, cfgd := true, rxlen := 3, txlen := 12 }) := by decide
theorem test_reserved : replied .reservedC State.reset = some (.refused .badOp)
    ∧ replied .reservedD State.reset = some (.refused .badOp) ∧ replied .reservedE State.reset = some (.refused .badOp) := by decide
theorem test_reset : (nx (exec .reset { st 7 0b1111 f1 with res := some r0, txq := f0, reply := some .done }))
    = some { State.reset with reply := some .done } := by decide
/-- The codes of R181 and R186. -/
theorem test_codes : [Status.ok, .corrupted, .checksum].map Status.code = [0, 1, 2]
    ∧ [Reason.unconfigured, .payloadTooLong, .txFull, .noResult, .badOp].map Reason.code = [1, 2, 3, 4, 5] := by decide

/-! ### Witnesses: for each statement with hypotheses, concrete values that meet them together, clause by clause -/

/-- The step has a next state. -/
def runs (o : Host.Outcome State Fault Refusal) : Bool :=
  (nx o).isSome

/-- F0's state for address `0xFFFFFFFF` in Command mode. -/
def s0 : State := st 0xFFFFFFFF 0b0100 f0

/-- The state after `PARSE` reports a prefix error (V-D5). -/
def s5 : State := { st 0xFFFFFFFF 0b1010 f1 with res := some (bad 1 2 6) }

theorem witness_ResetRestoresEveryElement :
    ({ s0 with rst := true } : State).rst = true ∧ ({ s0 with rst := true } : State).cfg.ok = true
      ∧ exec .reset s0 = .next { State.reset with reply := some .done }
      ∧ ({ s0 with rst := true, cfg := tight } : State).cfg.ok = true
      ∧ runs (step { s0 with rst := true, cfg := tight }) = true := by
  refine ⟨rfl, by decide, rfl, by decide, by decide⟩

theorem witness_RdaddrRepliesOrRefuses : s0.addr = some 0xFFFFFFFF ∧ State.reset.addr = none := by decide

theorem witness_TakeDeliversOnce : s5.res = some (bad 1 2 6) ∧ s0.res = none := by decide

theorem witness_ReservedNumbersAreBadOp : (req 0xC).op = 0xC ∧ (req 0xD).op = 0xD ∧ (req 0xE).op = 0xE := by decide

/-- Payloads of exactly `MAXPAY` and one more. -/
theorem witness_CsumRepliesChecksum : tight.ok = true ∧ (List.replicate 13 (0 : Byte)).length ≤ tight.maxPay
    ∧ tight.maxPay < (List.replicate 14 (0 : Byte)).length := by decide

theorem witness_ChecksumByteSerial :
    ([0xAA, 0x03, 0x00, 0x07] : Bytes).Perm
      ([0x07, (3 : Half).extractLsb' 8 8, (3 : Half).extractLsb' 0 8] ++ [0xAA]) := by decide

theorem witness_ChecksumDetectsSingleBitFlip : 7 < 8 ∧ 3 < ([0xDE, 0xAD, 0xBE, 0xEF] : Bytes).length ∧ 15 < 16 := by decide

/-- Unwritten; 14 bytes for `MAXPAY = 13`; 12 bytes behind 13 for `TXCAP = 24`, and behind 12. -/
theorem witness_EncAppendsWholeFrameOrRefuses :
    (tight.ok = true ∧ State.reset.addr = none)
    ∧ ((st 7 0 []).addr = some 7 ∧ tight.maxPay < (List.replicate 14 (0 : Byte)).length)
    ∧ (([0xAA] : Bytes).length ≤ tight.maxPay ∧ tight.txCap = .bytes 24
        ∧ 24 < (List.replicate 13 (0 : Byte)).length + 11 + ([0xAA] : Bytes).length)
    ∧ (∀ n : Nat, tight.txCap = .bytes n → fe2.length + 11 + ([0xAA] : Bytes).length ≤ n) := by
  refine ⟨by decide, by decide, by decide, fun n h => ?_⟩
  cases h; decide

theorem witness_TxbYieldsFrontByte : ({ s0 with txq := [0xEF, 0x01] } : State).txq = 0xEF :: [0x01] := rfl

theorem witness_TxbsYieldInOrder : 12 ≤ ({ s0 with txq := f0 } : State).txq.length := by decide

theorem witness_EncodeLengthAndInjective : ([] : Bytes).length ≤ 65533 ∧ ([0xAA] : Bytes).length ≤ 65533
    ∧ encodeFrame 0x01 0xFFFFFFFF [0xAA] = encodeFrame 0x01 0xFFFFFFFF ([0xAA] ++ []) := by decide

/-- The last free byte of a full-capacity accumulator. -/
theorem witness_RxbAppendsByte : ∀ n : Nat, ({ st 7 0 (List.replicate 23 0) with cfg := tight } : State).cfg.rxCap = .bytes n →
    (List.replicate 23 (0 : Byte)).length < n := by
  intro n h; cases h; decide

theorem witness_RxsAppendInOrder : ∀ n : Nat, tight.rxCap = .bytes n → f0.length + f7.length + [0xAA].length ≤ n := by
  intro n h; cases h; decide

theorem witness_ParseAcceptsGoodFrame : s0.cfg.ok = true ∧ s0.res = none ∧ s0.addr = some 0xFFFFFFFF
    ∧ s0.expect.getLsbD Kind.ack.bit = true ∧ ([0x00] : Bytes).length ≤ s0.cfg.maxPay ∧ 12 ≤ s0.rx.length
    ∧ s0.rx = [0xEF, 0x01] ++ be32 0xFFFFFFFF ++ [Kind.ack.pid] ++ be16 (BitVec.ofNat 16 (1 + 2)) ++ [0x00]
      ++ be16 (csum16 Kind.ack.pid (BitVec.ofNat 16 (1 + 2)) [0x00]) ++ [] := by decide

/-- V-D17: every cause at once; V-D5: the prefix alone, on a complete frame. -/
theorem witness_ParseRejectsCorrupted :
    ((st 0xFFFFFFFF 0b0100 (List.replicate 12 0)).res = none ∧ (st 0xFFFFFFFF 0b0100 (List.replicate 12 0)).expect ≠ 0
      ∧ (0 : Nat) < 2 ∧ 12 ≤ (List.replicate 12 (0 : Byte)).length)
    ∧ ((st 0xFFFFFFFF 0b1010 f1).res = none ∧ (byteAt f1 7).toNat * 256 + (byteAt f1 8).toNat = 6 ∧ 6 + 9 ≤ f1.length
      ∧ f1.take 6 ≠ [0xEF, 0x01, BitVec.ofNat 8 (0xFFFFFFFF / 2 ^ 24), BitVec.ofNat 8 (0xFFFFFFFF / 2 ^ 16),
          BitVec.ofNat 8 (0xFFFFFFFF / 2 ^ 8), BitVec.ofNat 8 0xFFFFFFFF]
      ∧ byteAt f1 6 = 0x02 ∧ (0b1010 : BitVec 4).getLsbD 1 = true) := by decide

/-- V-D23: the last checksum byte changed. -/
theorem witness_ParseRejectsChecksum :
    (0x0341 : Half) ≠ csum16 Kind.dat.pid (BitVec.ofNat 16 (4 + 2)) [0xDE, 0xAD, 0xBE, 0xEF]
    ∧ f1.take 13 ++ [0x03, 0x41] = [0xEF, 0x01] ++ be32 0x12345678 ++ [Kind.dat.pid] ++ be16 (BitVec.ofNat 16 (4 + 2))
      ++ [0xDE, 0xAD, 0xBE, 0xEF] ++ be16 0x0341 ++ []
    ∧ (0b1010 : BitVec 4).getLsbD Kind.dat.bit = true ∧ 12 ≤ (f1.take 13 ++ [0x03, 0x41]).length
    ∧ (st 0x12345678 0b1010 []).cfg.ok = true := by decide

/-- Full accumulator, empty queue, and each way the validator is held off, the last one a byte short. -/
theorem witness_DisabledTurnsChangeNothing :
    tight.rxCap = .bytes 24 ∧ 24 ≤ (List.replicate 24 (0 : Byte)).length ∧ s0.txq = [] ∧ s5.res ≠ none
    ∧ (st 7 0 f0).expect = 0 ∧ State.reset.addr = none ∧ (f0.take 11).length < 12
    ∧ (2 ≤ 6 ∧ 6 - 2 ≤ State.reset.cfg.maxPay ∧ (f1.take 14).length < 6 + 9)
    ∧ lenAt (f1.take 14) = 6 := by decide

theorem witness_DisabledTurnsChangeNothing_notInFront :
    ∀ rest : Bytes, f0 ≠ frameBytes .dat 0x12345678 6 [0xDE, 0xAD, 0xBE, 0xEF, 0x03, 0x40] ++ rest := by
  intro rest h
  have h6 : byteAt f0 6 = 0x02 := congrArg (fun l => byteAt l 6) h
  exact absurd h6 (by decide)

theorem witness_FrameFormsJudgeReceivedFrame :
    s0.cfg.ok = true ∧ s0.res = none ∧ s0.expect ≠ 0 ∧ s0.addr = some 0xFFFFFFFF ∧ 12 ≤ s0.rx.length
    ∧ (3 : Half) = BitVec.ofNat 16 (([0x00] : Bytes).length + 2)
    ∧ s0.rx = [0xEF, 0x01] ++ be32 0xFFFFFFFF ++ [0x07] ++ be16 3 ++ [0x00] ++ be16 0x000A ++ []
    ∧ (s0.expect.getLsbD 2 = true ∧ (0x000A : Half) = csum16 0x07 3 [0x00])
    ∧ (st 0xFFFFFFFF 0b1010 f0).expect.getLsbD 2 = false
    ∧ (st 0xFFFFFFFE 0b0100 f0).addr = some 0xFFFFFFFE ∧ (0xFFFFFFFF : Word) ≠ 0xFFFFFFFE := by decide

theorem witness_FrameFormIsParse : bodyFits 3 [0, 0, 0x0A] = true
    ∧ (f0 ++ [0xEF]) = frameBytes .ack 0xFFFFFFFF 3 [0, 0, 0x0A] ++ [0xEF]
    ∧ bodyFits 1 [0] = true ∧ [0xEF, 1, 0, 0, 0, 0, 7, 0, 1, 0, 0, 8] = frameBytes .ack 0 1 [0] ++ [0, 8] := by decide

theorem witness_ParseDependsOnFrameOnly : s0.rx = ({ s0 with txq := f1 } : State).rx
    ∧ s0.cfg.maxPay = ({ s0 with cfg := { s0.cfg with txCap := .bytes 65544 } } : State).cfg.maxPay
    ∧ s0.res = none ∧ exec .parse s0 = .next { s0 with res := some r0, rx := [] } :=
  ⟨rfl, rfl, rfl, rfl⟩

theorem witness_CorruptedOutranksChecksum :
    exec .parse (st 0xFFFFFFFF 0b1010 f1) = .next s5 ∧ s5.res = some (bad 1 2 6) ∧ (bad 1 2 6).status = .corrupted
    ∧ (f1.take 9 ++ [1, 2, 3, 4, 5, 6]).length = f1.length ∧ (f1.take 9 ++ [1, 2, 3, 4, 5, 6]).take 9 = f1.take 9 :=
  ⟨rfl, rfl, rfl, rfl, rfl⟩

theorem witness_TwelveByteFloor : (st 0xFFFFFFFF 0b1010 f7).rx.length < 12
    ∧ s0.rx = encodeFrame Kind.ack.pid 0xFFFFFFFF [0x00]
    ∧ (st 0xFFFFFFFF 0b1010 f7).rx = encodeFrame Kind.fin.pid 0xFFFFFFFF []
    ∧ (st 0xFFFFFFFF 0b1010 f7).expect.getLsbD Kind.fin.bit = true ∧ s0.expect.getLsbD Kind.ack.bit = true
    ∧ s0.cfg.ok = true := by decide

theorem witness_TakeAloneRepeatsTheError : (st 0xFFFFFFFF 0b1010 f1).res = none
    ∧ exec .parse (st 0xFFFFFFFF 0b1010 f1) = .next s5 ∧ s5.res = some (bad 1 2 6) ∧ (bad 1 2 6).status ≠ .ok :=
  ⟨rfl, rfl, rfl, by decide⟩

theorem witness_CoalescedFrameIsNotStranded :
    (st 0xFFFFFFFF 0b1100 (f0 ++ f7 ++ [0xEF])).rx
        = encodeFrame Kind.ack.pid 0xFFFFFFFF [0x00] ++ encodeFrame Kind.fin.pid 0xFFFFFFFF [] ++ [0xEF]
    ∧ (0b1100 : BitVec 4).getLsbD Kind.ack.bit = true ∧ (0b1100 : BitVec 4).getLsbD Kind.fin.bit = true
    ∧ (st 0xFFFFFFFF 0b1100 []).cfg.ok = true ∧ (st 0xFFFFFFFF 0b1100 []).res = none := by decide

theorem witness_FullAccumulatorNeverBlocksTheValidator :
    ({ st 7 0b0100 (List.replicate 24 0) with cfg := tight } : State).cfg.ok = true
    ∧ ({ st 7 0b0100 (List.replicate 24 0) with cfg := tight } : State).rxReady = false
    ∧ (st 7 0b0100 []).res = none ∧ (st 7 0b0100 []).expect ≠ 0 ∧ (st 7 0b0100 []).addr = some 7 := by decide

theorem witness_DecodeOfEncode : (Instr.frameAck 0xFFFFFFFF 3 [0, 0, 0x0A]).wf = true ∧ bodyFits 0 [] = true := by decide

theorem witness_FrameRowsMatchMaskedHead :
    ((0xEF01FFFFFFFF070003 : BitVec 72).extractLsb' 0 16).toNat ≤ ([0, 0, 0x0A] : Bytes).length
    ∧ (0xEF01FFFFFFFF070003 : BitVec 72) &&& 0xFFFF00000000FF0000 = 0xEF0100000000070000
    ∧ (0xEF01FFFFFFFF050003 : BitVec 72) &&& 0xFFFF00000000FF0000 ≠ 0xEF0100000000070000 := by decide

theorem witness_StepRunsDecodedWord :
    ({ s0 with sched := [.host (req 1), .tin, .tout, .val] } : State).rst = false
    ∧ ({ s0 with sched := [.tin], rxHeld := [0xEF] } : State).rxHeld = 0xEF :: []
    ∧ ({ s0 with sched := [.val] } : State).sched = .val :: []
    ∧ decode (.frame s0.rx) = .frameAck 0xFFFFFFFF 3 [0, 0, 0x0A]
    ∧ ({ s0 with sched := [.tin] } : State).rxHeld = [] ∧ s0.sched = []
    ∧ ({ s0 with sched := [.rst, .val] } : State).sched = .rst :: [.val] := by decide

theorem witness_RequestOnRstMayRiseAnywhere :
    ({ s0 with sched := [.val, .rst, .tout] } : State).rst = false
    ∧ ({ s0 with sched := [.val, .rst, .tout] } : State).sched = [.val] ++ .rst :: [.tout] ∧ Turn.rst ∉ [Turn.val] := by
  decide

theorem witness_FetchWordIsRun : decodeTableWord 8 0x7 = some .flush
    ∧ decodeTableWord 72 0xEF0100000000070000 = some (.frameAck 0 0 []) ∧ decodeTableWord 0 0 = some .parse := by decide

theorem witness_ValidatorTurnIsParse : ({ s0 with sched := [.val, .tout] } : State).rst = false
    ∧ ({ s0 with sched := [.val, .tout] } : State).sched = .val :: [.tout] := by decide

theorem witness_OfferedByteIsNeverLost :
    ({ st 7 0 (List.replicate 24 0) with cfg := tight, sched := [.tin], rxHeld := [0xEF] } : State).sched = .tin :: []
    ∧ ({ st 7 0 (List.replicate 24 0) with cfg := tight, sched := [.tin], rxHeld := [0xEF] } : State).rst = false := by decide

theorem witness_OnlyConfigurationWritesRegisters : exec (.wraddr 7) s0 = .next { s0 with addr := some 7, reply := some .done } :=
  rfl

theorem witness_OnlyReceiveStepsChangeRx : exec .parse s0 = .next { s0 with res := some r0, rx := [] }
    ∧ isValidatorStep .parse = true ∧ exec (.rxb 1) s0 = .next { s0 with rx := f0 ++ [1] } :=
  ⟨rfl, rfl, rfl⟩

theorem witness_OnlyTransmitStepsChangeTxq :
    exec (.encAck [0x00]) s0 = .next { s0 with txq := f0, reply := some .done }
    ∧ exec .txb { s0 with txq := [0xEF] } = .next { s0 with txOut := [0xEF] } :=
  ⟨rfl, rfl⟩

theorem witness_PendingResultIsKept : exec .take s5 = .next { s5 with res := none, reply := some (.result (bad 1 2 6)) }
    ∧ exec (.wrexp 0) s5 = .next { s5 with expect := 0, reply := some .done } :=
  ⟨rfl, rfl⟩

/-- One transaction refused for each reason. -/
theorem witness_RefusalChangesNoState :
    exec (decode (.op (req 0x1))) State.reset = .next { State.reset with reply := some (.refused .unconfigured) }
    ∧ exec (decode (.op { req 0x5 with p := List.replicate 14 0 })) { s0 with cfg := tight }
      = .next { s0 with cfg := tight, reply := some (.refused .payloadTooLong) }
    ∧ exec (decode (.op (req 0x8))) { s0 with cfg := tight, txq := fe2 ++ fe2 }
      = .next { s0 with cfg := tight, txq := fe2 ++ fe2, reply := some (.refused .txFull) }
    ∧ exec (decode (.op (req 0x6))) s0 = .next { s0 with reply := some (.refused .noResult) }
    ∧ exec (decode (.op (req 0xD))) s0 = .next { s0 with reply := some (.refused .badOp) } :=
  ⟨rfl, rfl, rfl, rfl, rfl⟩

/-- A state in the middle of things: an error pending, its frame still in `rx`, a frame partly on the wire. -/
def busy : State :=
  { s5 with cfg := tight, txq := fe2.drop 5, sched := [.tout] }

theorem witness_StepKeepsInvariants :
    Inv busy ∧ step busy = .next { busy with txq := fe2.drop 6, txOut := [0xFF], sched := [] } := by
  refine ⟨⟨by decide, by decide, by decide, ?_, ?_⟩, rfl⟩
  · intro r h
    cases h
    exact ⟨by decide, rfl⟩
  · exact ⟨[⟨.cmd, 0xFFFFFFFF, [0xAA]⟩], 5, by simp [busy, tight], by decide, by decide⟩

theorem witness_RunsKeepInvariants :
    Host.Core.run Sys2Proof.core 2 busy = .next { busy with txq := fe2.drop 6, txOut := [0xFF], sched := [] } := rfl

theorem witness_ResetMeetsInvariants : s0.cfg.ok = true ∧ s0.cfg.rxCap.holds s0.rx.length = true ∧ s0.txq = [] ∧ s0.res = none := by
  decide

theorem witness_EncodeThenParseRoundTrip :
    (tight.ok = true ∧ (List.replicate 13 (0xFF : Byte)).length ≤ tight.maxPay
      ∧ ∀ n : Nat, tight.rxCap = .bytes n → 11 + 13 + ([] : Bytes).length ≤ n)
    ∧ (st 7 0b1000 []).rx = [] ∧ (st 7 0b1000 []).res = none ∧ (st 7 0b1000 []).addr = some 7
    ∧ (st 7 0b1000 []).expect.getLsbD Kind.fin.bit = true ∧ (([] : Bytes) = [] → ([0xEF] : Bytes) ≠ []) := by
  refine ⟨⟨by decide, by decide, fun n h => ?_⟩, rfl, rfl, rfl, by decide, by decide⟩
  cases h; decide

theorem witness_SenderToReceiver :
    ([0x00] : Bytes) ≠ [] ∧ tight.ok = true ∧ ([0x00] : Bytes).length ≤ tight.maxPay
    ∧ (st 7 0 []).addr = some 7 ∧ (st 7 0 []).txq = [] ∧ (st 7 0b0100 []).rx = [] ∧ (st 7 0b0100 []).res = none
    ∧ (st 7 0b0100 []).expect.getLsbD Kind.ack.bit = true := by decide

end Sys2Proof.Tests
end

section
/-! Which word a step fetches and what it does with it, said once per turn. -/

namespace Sys2Proof.Machine

variable (s : State)

theorem fetch_host (q : HostReq) (rest : List Turn) (h : s.sched = .host q :: rest) :
    fetch s = some (.op q) := by
  simp [fetch, h]

theorem fetch_tin (b : Byte) (held : Bytes) (rest : List Turn) (h : s.sched = .tin :: rest)
    (hb : s.rxHeld = b :: held) : fetch s = some (.rxByte b) := by
  simp [fetch, h, hb]

theorem fetch_tin_idle (rest : List Turn) (h : s.sched = .tin :: rest) (hb : s.rxHeld = []) :
    fetch s = none := by
  simp [fetch, h, hb]

theorem fetch_tout (rest : List Turn) (h : s.sched = .tout :: rest) : fetch s = some .txTake := by
  simp [fetch, h]

theorem fetch_val (rest : List Turn) (h : s.sched = .val :: rest) : fetch s = some (.frame s.rx) := by
  simp [fetch, h]

theorem fetch_raise (rest : List Turn) (h : s.sched = .rst :: rest) : fetch s = none := by
  simp [fetch, h]

theorem fetch_none (h : s.sched = []) : fetch s = none := by
  simp [fetch, h]

theorem step_of_fetch (pw : PortWord) (hr : s.rst = false) (h : fetch s = some pw) :
    step s = exec (decode pw) (advance s) := by
  simp [step, hr, h]

theorem step_of_fetch_none (hr : s.rst = false) (h : fetch s = none) : step s = .next (advance s) := by
  simp [step, hr, h]

/-- With no byte held there is none to hand over, whether or not `rx` has room. -/
theorem advance_tin_idle (rest : List Turn) (h : s.sched = .tin :: rest) (hb : s.rxHeld = []) :
    advance s = { s with sched := rest } := by
  have hheld : (if s.rxReady then s.rxHeld.tail else s.rxHeld) = s.rxHeld := by simp [hb]
  rw [advance_tin s rest h, hheld]

/-- Settles O34: each turn's step is the rule for its fetched word, in the state `advance` gives. -/
theorem stepRunsDecodedWord : Obligations.StepRunsDecodedWord := by
  intro s rest hr
  refine ⟨fun q h => ?host, fun b held h hb => ?tin, fun h => ?tout, fun i h hi => ?val, fun h hb => ?tinIdle,
    fun h => ?raise, fun h => ?none⟩
  case host => rw [step_of_fetch s _ hr (fetch_host s q rest h), advance_host s q rest h]
  case tin =>
    rw [step_of_fetch s _ hr (fetch_tin s b held rest h hb), advance_tin s rest h, hb]
    rfl
  case tout =>
    rw [step_of_fetch s _ hr (fetch_tout s rest h), advance_tout s rest h]
    rfl
  case val => rw [step_of_fetch s _ hr (fetch_val s rest h), advance_val s rest h, hi]
  case tinIdle => rw [step_of_fetch_none s hr (fetch_tin_idle s rest h hb), advance_tin_idle s rest h hb]
  case raise => rw [step_of_fetch_none s hr (fetch_raise s rest h), advance_raise s rest h]
  case none => rw [step_of_fetch_none s hr (fetch_none s h), advance_none s h]

end Sys2Proof.Machine
end

section
/-! When an agent's step is not enabled, its operation leaves the state alone (R14). For the validator one condition
covers both forms of its step: a frame form is enabled only when `PARSE` is. -/

namespace Sys2Proof.Machine

/-- R135: no room in `rx`. -/
theorem rxReady_eq_false_of_full (s : State) (n : Nat) (hc : s.cfg.rxCap = .bytes n) (hn : n ≤ s.rx.length) :
    s.rxReady = false := by
  rw [Bool.eq_false_iff, ne_eq, rxReady_iff]
  intro room
  exact absurd (room n hc) (Nat.not_lt.mpr hn)

theorem execRxb_disabled (b : Byte) (s : State) (h : s.rxReady = false) : execRxb b s = .next s := by
  simp [execRxb, h]

/-- The length field of a frame at the front of `rx` is the frame's own, and the whole frame is there (R136). -/
theorem lenAt_of_frame_in_front (k : Kind) (addr : Word) (len : Half) (body rx : Bytes)
    (h : frameBytes k addr len body <+: rx) : lenAt rx = len ∧ 9 + body.length ≤ rx.length := by
  obtain ⟨rest, rfl⟩ := h
  constructor
  · rw [frameBytes, List.append_assoc, lenAt_head]
  · simp [frameBytes, headLen]

/-- A frame form is enabled only when `PARSE` is. -/
theorem parseEnabled_of_frameEnabled (k : Kind) (addr : Word) (len : Half) (body : Bytes) (s : State)
    (hf : s.frameEnabled (frameBytes k addr len body) = true) (hb : body.length = len.toNat) :
    s.parseEnabled = true := by
  obtain ⟨hres, hexp, haddr, hfloor, hfront⟩ := (frameEnabled_iff s _).mp hf
  obtain ⟨hlen, hwhole⟩ := lenAt_of_frame_in_front k addr len body s.rx hfront
  have hcomplete : frameComplete s.cfg s.rx = true :=
    (frameComplete_iff s.cfg s.rx).mpr (.inr (by rw [hlen]; omega))
  exact (parseEnabled_iff s).mpr ⟨hres, hexp, haddr, hfloor, hcomplete⟩

theorem frameStep_disabled (k : Kind) (addr : Word) (len : Half) (body : Bytes) (s : State)
    (h : s.parseEnabled = false) : frameStep k addr len body s = s := by
  rcases frameStep_cases k addr len body s with same | ⟨-, -, hf, hb, -⟩
  · exact same
  · rw [parseEnabled_of_frameEnabled k addr len body s hf hb] at h
    cases h

theorem frameStep_not_in_front (k : Kind) (addr : Word) (len : Half) (body : Bytes) (s : State)
    (h : ¬ frameBytes k addr len body <+: s.rx) : frameStep k addr len body s = s := by
  rcases frameStep_cases k addr len body s with same | ⟨-, -, hf, -, -⟩
  · exact same
  · obtain ⟨-, -, -, -, hfront⟩ := (frameEnabled_iff s _).mp hf
    exact absurd hfront h

/-- R136: a sound length field whose frame is not all there yet. -/
theorem frameComplete_eq_false (cfg : Config) (rx : Bytes) : frameComplete cfg rx = false ↔
    2 ≤ (lenAt rx).toNat ∧ (lenAt rx).toNat - 2 ≤ cfg.maxPay ∧ rx.length < (lenAt rx).toNat + 9 := by
  rw [Bool.eq_false_iff, ne_eq, frameComplete_iff, not_or, Bool.not_eq_true, lenBad_eq_false, Nat.not_le, and_assoc]

/-- R139: what holds the validator off. -/
theorem parseEnabled_eq_false (s : State) : s.parseEnabled = false ↔
    s.res ≠ none ∨ s.expect = 0 ∨ s.addr = none ∨ s.rx.length < 12
      ∨ (2 ≤ (lenAt s.rx).toNat ∧ (lenAt s.rx).toNat - 2 ≤ s.cfg.maxPay ∧ s.rx.length < (lenAt s.rx).toNat + 9) := by
  rw [← frameComplete_eq_false, Bool.eq_false_iff, ne_eq, parseEnabled_iff]
  simp only [not_and_or, not_not, Nat.not_le, Bool.not_eq_true, ne_eq]

/-- Settles O21: each condition makes the operation's own enabling test false, and a step that is not enabled leaves
the state alone. -/
theorem disabledTurnsChangeNothing : Obligations.DisabledTurnsChangeNothing := by
  intro s
  refine ⟨fun n b hc hn => ?rxb, fun hq => ?txb, fun len hlen hoff => ?validator, fun k addr l body hfront => ?front⟩
  case rxb => exact execRxb_disabled b s (rxReady_eq_false_of_full s n hc hn)
  case txb => exact congrArg Host.Outcome.next (popTx_empty s hq)
  case validator =>
    have hdis : s.parseEnabled = false := by
      rw [parseEnabled_eq_false, lenAt, u16_toNat, ← hlen]
      exact hoff
    refine ⟨execParse_disabled s hdis, fun k addr l body => ?_⟩
    rw [exec_frameInstr, frameStep_disabled k addr l body s hdis]
  case front =>
    have hnot : ¬ frameBytes k addr l body <+: s.rx := fun ⟨rest, h⟩ => hfront rest h.symm
    rw [exec_frameInstr, frameStep_not_in_front k addr l body s hnot]

end Sys2Proof.Machine
end

section
/-! What an operation can do to the state of SPF, said once (`exec_effect`). Which steps write which element (R23 to R27)
is then read off the cases, and so are the invariants of R33. -/

namespace Sys2Proof.Machine

/-- The effects an operation can have. A refusal and a read are both `replied`: the host is answered and no more. -/
inductive Effect (s : State) : Instr → State → Prop where
  | kept (i : Instr) : Effect s i s
  | replied (i : Instr) (r : Reply) : Effect s i (answer r s)
  | wroteAddr (a : Word) : Effect s (.wraddr a) (answer .done (setAddr a s))
  | wroteExpect (m : BitVec 4) : Effect s (.wrexp m) (answer .done (setExpect m s))
  | posted (i : Instr) (r : Result) (validator : isValidatorStep i = true) (idle : s.res = none)
      (sound : resultOk s.cfg r) : Effect s i (postResult r s)
  | took (r : Result) (pending : s.res = some r) : Effect s .take (answer (.result r) (releaseResult s))
  | flushed : Effect s .flush (answer .done (flushRx s))
  | encoded (k : Kind) (a : Word) (p : Bytes) (haddr : s.addr = some a) (short : p.length ≤ s.cfg.maxPay)
      (room : s.cfg.txCap.holds (s.txq.length + 11 + p.length) = true) :
      Effect s (encInstr k p) (answer .done (pushTx (encodeFrame k.pid a p) s))
  | received (b : Byte) (room : s.rxReady = true) : Effect s (.rxb b) (pushRx b s)
  | sent (b : Byte) (rest : Bytes) (front : s.txq = b :: rest) :
      Effect s .txb { s with txq := rest, txOut := s.txOut ++ [b] }
  | cleared : Effect s .reset (answer .done (resetElements s))

/-! ### The Results the validator writes -/

theorem accepts_pid_values (mask : BitVec 4) (b : Byte) (h : accepts mask b = true) :
    b = 0x01 ∨ b = 0x02 ∨ b = 0x07 ∨ b = 0x08 := by
  unfold accepts at h
  cases hk : Kind.ofPid b with
  | none => simp [hk] at h
  | some k =>
    rw [(Kind.ofPid_eq_some b k).mp hk]
    cases k <;> decide

/-- R33 (ii) to (iv): a verdict is a sound Result if, without a cause, the length is sound, the payload is as long as it
says, and the packet id is a kind's. -/
theorem resultOk_verdict (cfg : Config) (c : BitVec 3) (pid : Byte) (len : Half) (p : Bytes) (rc : Half)
    (h : c = 0 → lenBad cfg len = false ∧ p.length = len.toNat - 2
      ∧ (pid = 0x01 ∨ pid = 0x02 ∨ pid = 0x07 ∨ pid = 0x08)) :
    resultOk cfg (verdict c pid len p rc) := by
  rcases verdict_cases c pid len p rc with ⟨hc, e⟩ | ⟨hc, -, e⟩ | ⟨hc, -, e⟩ <;> rw [e]
  · exact ⟨hc, rfl⟩
  · obtain ⟨hlen, -, -⟩ := h hc
    obtain ⟨two, -⟩ := (lenBad_eq_false cfg len).mp hlen
    exact ⟨rfl, two, rfl⟩
  · obtain ⟨hlen, hp, hpid⟩ := h hc
    obtain ⟨two, short⟩ := (lenBad_eq_false cfg len).mp hlen
    exact ⟨rfl, two, hp, hpid, hp.trans_le short⟩

/-- With a sound length `PARSE` waits for the whole frame (R136), so the payload slice is not cut short. -/
theorem examine_resultOk (s : State) (a : Word) (h : s.parseEnabled = true) :
    resultOk s.cfg (examine s.cfg a s.expect s.rx) := by
  obtain ⟨-, -, -, -, complete⟩ := (parseEnabled_iff s).mp h
  refine resultOk_verdict _ _ _ _ _ _ fun hc => ?_
  obtain ⟨-, hpid, hlen⟩ := (causeBits_eq_zero _ _ _).mp hc
  have whole : (lenAt s.rx).toNat + 9 ≤ s.rx.length :=
    ((frameComplete_iff _ _).mp complete).resolve_left (by simp [hlen])
  refine ⟨hlen, ?_, accepts_pid_values s.expect _ (by simpa using hpid)⟩
  simp only [slice, headLen, List.length_take, List.length_drop]
  omega

theorem examineFrame_resultOk (cfg : Config) (a : Word) (expect : BitVec 4) (k : Kind) (addr : Word) (len : Half)
    (body : Bytes) (h : body.length = len.toNat) : resultOk cfg (examineFrame cfg a expect k addr len body) := by
  refine resultOk_verdict _ _ _ _ _ _ fun hc => ?_
  obtain ⟨-, -, hlen⟩ := (causeBits_eq_zero _ _ _).mp hc
  refine ⟨hlen, ?_, by cases k <;> decide⟩
  rw [List.length_take, h]
  omega

/-! ### Every operation has one of the effects -/

theorem isValidatorStep_frameInstr (k : Kind) (addr : Word) (len : Half) (body : Bytes) :
    isValidatorStep (frameInstr k addr len body) = true := by
  cases k <;> rfl

theorem frameStep_effect (k : Kind) (addr : Word) (len : Half) (body : Bytes) (s : State) :
    Effect s (frameInstr k addr len body) (frameStep k addr len body s) := by
  rcases frameStep_cases k addr len body s with e | ⟨a, -, hf, hb, e⟩ <;> rw [e]
  · exact .kept _
  · obtain ⟨idle, -⟩ := (frameEnabled_iff s _).mp hf
    exact .posted _ _ (isValidatorStep_frameInstr k addr len body) idle (examineFrame_resultOk _ a _ k addr len body hb)

theorem encodeInto_effect (k : Kind) (p : Bytes) (s : State) : Effect s (encInstr k p) (encodeInto k p s) := by
  rcases encodeInto_cases k p s with ⟨-, e⟩ | ⟨a, ha, ⟨-, e⟩ | ⟨-, -, e⟩ | ⟨short, room, e⟩⟩ <;> rw [e]
  · exact .replied _ _
  · exact .replied _ _
  · exact .replied _ _
  · exact .encoded k a p ha short room

theorem popTx_effect (s : State) : Effect s .txb (popTx s) := by
  cases hq : s.txq with
  | nil => rw [popTx_empty s hq]; exact .kept _
  | cons b rest => rw [popTx_cons s b rest hq]; exact .sent b rest hq

theorem exec_effect (i : Instr) (s t : State) (h : exec i s = .next t) : Effect s i t := by
  cases i with
  | frameCmd addr len body => cases h; exact frameStep_effect .cmd addr len body s
  | frameDat addr len body => cases h; exact frameStep_effect .dat addr len body s
  | frameAck addr len body => cases h; exact frameStep_effect .ack addr len body s
  | frameEnd addr len body => cases h; exact frameStep_effect .fin addr len body s
  | parse =>
    rcases execParse_cases s with ⟨-, e⟩ | ⟨a, -, hp, e⟩ <;> cases e.symm.trans h
    · exact .kept _
    · obtain ⟨idle, -⟩ := (parseEnabled_iff s).mp hp
      exact .posted _ _ rfl idle (examine_resultOk s a hp)
  | encCmd p => cases h; exact encodeInto_effect .cmd p s
  | encDat p => cases h; exact encodeInto_effect .dat p s
  | encAck p => cases h; exact encodeInto_effect .ack p s
  | encEnd p => cases h; exact encodeInto_effect .fin p s
  | wraddr a => cases h; exact .wroteAddr a
  | wrexp m => cases h; exact .wroteExpect m
  | flush => cases h; exact .flushed
  | reset => cases h; exact .cleared
  | txb => cases h; exact popTx_effect s
  | rxb b =>
    rcases execRxb_cases b s with ⟨room, e⟩ | ⟨-, e⟩ <;> cases e.symm.trans h
    · exact .received b room
    · exact .kept _
  | take =>
    simp only [exec, execTake] at h
    split at h <;> cases h
    · exact .replied _ _
    · next r pending => exact .took r pending
  | rdaddr => simp only [exec, execRdaddr] at h; split at h <;> cases h <;> exact .replied _ _
  | csum k p => simp only [exec, execCsum] at h; split at h <;> cases h <;> exact .replied _ _
  | rdstat | rdexp | reservedC | reservedD | reservedE => cases h; exact .replied _ _

end Sys2Proof.Machine
end

section
/-! R33: what each effect does to the invariants, then every step and every run. -/

namespace Sys2Proof.Machine

/-! ### The transmit queue is made of whole frames (R33 (v)) -/

theorem wholeFrames_append (fs gs : List SentFrame) : wholeFrames (fs ++ gs) = wholeFrames fs ++ wholeFrames gs := by
  induction fs with
  | nil => rfl
  | cons f fs ih => simp [wholeFrames, ih]

theorem txWhole_nil (cfg : Config) : txWhole cfg [] :=
  ⟨[], 0, by simp, Nat.le_refl 0, rfl⟩

theorem txWhole_append_frame (cfg : Config) (q : Bytes) (k : Kind) (a : Word) (p : Bytes)
    (hp : p.length ≤ cfg.maxPay) (h : txWhole cfg q) : txWhole cfg (q ++ encodeFrame k.pid a p) := by
  obtain ⟨fs, n, short, hn, rfl⟩ := h
  have last : wholeFrames (fs ++ [⟨k, a, p⟩]) = wholeFrames fs ++ encodeFrame k.pid a p := by
    simp [wholeFrames_append, wholeFrames]
  refine ⟨fs ++ [⟨k, a, p⟩], n, ?_, ?_, ?_⟩
  · simpa [or_imp, forall_and] using ⟨short, hp⟩
  · rw [last, List.length_append]; omega
  · rw [last, List.drop_append_of_le_length hn]

theorem txWhole_of_cons (cfg : Config) (b : Byte) (rest : Bytes) (h : txWhole cfg (b :: rest)) : txWhole cfg rest := by
  obtain ⟨fs, n, short, -, hq⟩ := h
  have more : n < (wholeFrames fs).length := by
    rw [← List.drop_eq_nil_iff.not.trans Nat.not_le, ← hq]
    exact List.cons_ne_nil b rest
  refine ⟨fs, n + 1, short, more, ?_⟩
  rw [← List.tail_drop, ← hq, List.tail_cons]

/-! ### The invariants, effect by effect -/

theorem inv_of_same_elements (s t : State) (h : Inv s) (hcfg : t.cfg = s.cfg) (hrx : t.rx = s.rx)
    (htxq : t.txq = s.txq) (hres : t.res = s.res) : Inv t := by
  exact {
    cfgOk := by rw [hcfg]; exact h.cfgOk
    rxFits := by rw [hcfg, hrx]; exact h.rxFits
    txFits := by rw [hcfg, htxq]; exact h.txFits
    resOk := by rw [hcfg, hres]; exact h.resOk
    txFrames := by rw [hcfg, htxq]; exact h.txFrames }

theorem inv_of_idle (s : State) (hcfg : s.cfg.ok = true) (hrx : s.cfg.rxCap.holds s.rx.length = true)
    (htxq : s.txq = []) (hres : s.res = none) : Inv s where
  cfgOk := hcfg
  rxFits := hrx
  txFits := by
    obtain ⟨-, -, -, cap⟩ := (config_ok_iff s.cfg).mp hcfg
    rw [htxq]
    exact holds_mono _ _ _ (Nat.zero_le _) cap
  resOk := by simp [hres]
  txFrames := by rw [htxq]; exact txWhole_nil s.cfg

/-- `RESET` and `rst` (R205): nothing is left that could break an invariant. -/
theorem inv_of_cleared (s t : State) (h : Inv s) (hcfg : t.cfg = s.cfg) (hrx : t.rx = []) (htxq : t.txq = [])
    (hres : t.res = none) : Inv t := by
  refine inv_of_idle t (by rw [hcfg]; exact h.cfgOk) ?_ htxq hres
  rw [hcfg, hrx]
  exact holds_mono _ _ _ (Nat.zero_le _) h.rxFits

theorem inv_postResult (s : State) (r : Result) (h : Inv s) (sound : resultOk s.cfg r) : Inv (postResult r s) :=
  { h with
    rxFits := holds_mono _ _ _ (by simp) h.rxFits
    resOk := by rintro _ ⟨⟩; exact sound }

theorem inv_releaseResult (s : State) (h : Inv s) : Inv (releaseResult s) :=
  { h with resOk := nofun }

theorem inv_flushRx (s : State) (h : Inv s) : Inv (flushRx s) :=
  { h with
    rxFits := holds_mono _ _ _ (Nat.zero_le _) h.rxFits
    resOk := nofun }

theorem inv_pushRx (s : State) (b : Byte) (h : Inv s) (room : s.rxReady = true) : Inv (pushRx b s) :=
  { h with rxFits := by rw [pushRx_rx, List.length_append]; exact room }

theorem inv_pushTx (s : State) (k : Kind) (a : Word) (p : Bytes) (h : Inv s) (short : p.length ≤ s.cfg.maxPay)
    (room : s.cfg.txCap.holds (s.txq.length + 11 + p.length) = true) :
    Inv (pushTx (encodeFrame k.pid a p) s) :=
  { h with
    txFits := by
      rw [pushTx_txq, List.length_append, encodeFrame_length, ← Nat.add_assoc]
      exact room
    txFrames := txWhole_append_frame s.cfg s.txq k a p short h.txFrames }

/-- A byte from the front of the queue goes to the wire (R121). -/
theorem inv_of_front_sent (s : State) (b : Byte) (rest out : Bytes) (h : Inv s) (front : s.txq = b :: rest) :
    Inv { s with txq := rest, txOut := out } :=
  { h with
    txFits := holds_mono _ _ _ (by simp [front]) h.txFits
    txFrames := txWhole_of_cons s.cfg b rest (front ▸ h.txFrames) }

theorem inv_answer (s : State) (r : Reply) (h : Inv s) : Inv (answer r s) :=
  inv_of_same_elements s _ h rfl rfl rfl rfl

theorem exec_keeps_inv (i : Instr) (s t : State) (h : Inv s) (he : exec i s = .next t) : Inv t := by
  cases exec_effect i s t he with
  | kept => exact h
  | replied _ r => exact inv_answer s r h
  | wroteAddr | wroteExpect => exact inv_of_same_elements s _ h rfl rfl rfl rfl
  | posted _ r _ _ sound => exact inv_postResult s r h sound
  | took r => exact inv_answer _ _ (inv_releaseResult s h)
  | flushed => exact inv_answer _ _ (inv_flushRx s h)
  | encoded k a p _ short room => exact inv_answer _ _ (inv_pushTx s k a p h short room)
  | received b room => exact inv_pushRx s b h room
  | sent b rest front => exact inv_of_front_sent s b rest _ h front
  | cleared => exact inv_of_cleared s _ h rfl rfl rfl rfl

theorem advance_keeps_inv (s : State) (h : Inv s) : Inv (advance s) :=
  inv_of_same_elements s _ h (advance_cfg s) (advance_rx s) (advance_txq s) (advance_res s)

/-! ### Every step and every run -/

/-- Everything a step can be: a reset request served, a turn spent, or an operation after the turn is spent. -/
theorem step_cases (s t : State) (h : step s = .next t) :
    (s.rst = true ∧ t = serveRst s) ∨ (s.rst = false ∧ fetch s = none ∧ t = advance s)
    ∨ ∃ pw, s.rst = false ∧ fetch s = some pw ∧ exec (decode pw) (advance s) = .next t := by
  cases hr : s.rst with
  | true =>
    have e : step s = .next (serveRst s) := if_pos hr
    cases e.symm.trans h
    exact .inl ⟨rfl, rfl⟩
  | false =>
    cases hf : fetch s with
    | none =>
      cases (step_of_fetch_none s hr hf).symm.trans h
      exact .inr (.inl ⟨rfl, rfl, rfl⟩)
    | some pw => exact .inr (.inr ⟨pw, rfl, rfl, (step_of_fetch s pw hr hf).symm.trans h⟩)

/-- Settles O44: a reset clears the elements, a spent turn touches none of them, and each effect of an operation keeps
the invariants. -/
theorem stepKeepsInvariants : Obligations.StepKeepsInvariants := by
  intro s t h hs
  rcases step_cases s t hs with ⟨-, rfl⟩ | ⟨-, -, rfl⟩ | ⟨pw, -, -, he⟩
  · exact inv_of_cleared s _ h rfl rfl rfl rfl
  · exact advance_keeps_inv s h
  · exact exec_keeps_inv (decode pw) (advance s) t (advance_keeps_inv s h) he

/-- A run of one step more, on any machine, is a step and then the run. -/
theorem run_succ_next (M : Host.Core) (n : Nat) (s t : M.State) (h : M.run (n + 1) s = .next t) :
    ∃ u, M.step s = .next u ∧ M.run n u = .next t := by
  unfold Host.Core.run at h
  split at h
  · next u hu => exact ⟨u, hu, h⟩
  · cases h
  · cases h

/-- Settles O46, by induction on the number of steps. -/
theorem runsKeepInvariants : Obligations.RunsKeepInvariants := by
  intro n
  induction n with
  | zero => intro s t h hrun; cases hrun; exact h
  | succ n ih =>
    intro s t h hrun
    obtain ⟨u, hu, hrest⟩ := run_succ_next Sys2Proof.core n s t hrun
    exact ih u t (stepKeepsInvariants s u h hu) hrest

/-- Settles O45: with nothing queued and no Result only the accumulator and the parameters are left to check. -/
theorem resetMeetsInvariants : Obligations.ResetMeetsInvariants :=
  ⟨inv_of_idle State.reset (by decide) (by decide) rfl rfl, inv_of_idle⟩

end Sys2Proof.Machine
end

section
/-! Which operation writes which element of the state (R23 to R27), and the reset values (R32). -/

namespace Sys2Proof.Machine

/-- Settles O38: of the effects only `wroteAddr`, `wroteExpect` and `cleared` touch the two registers. -/
theorem onlyConfigurationWritesRegisters : Obligations.OnlyConfigurationWritesRegisters := by
  intro i s t h
  cases exec_effect i s t h with
  | wroteAddr a => exact ⟨.inr (.inl ⟨a, rfl, rfl⟩), .inl rfl, rfl⟩
  | wroteExpect m => exact ⟨.inl rfl, .inr (.inl ⟨m, rfl, rfl⟩), rfl⟩
  | cleared => exact ⟨.inr (.inr ⟨rfl, rfl⟩), .inr (.inr ⟨rfl, rfl⟩), rfl⟩
  | kept | replied | posted | took | flushed | encoded | received | sent => exact ⟨.inl rfl, .inl rfl, rfl⟩

/-- Settles O39: a posted Result drops its frame from `rx` when it is `OK` and nothing otherwise. -/
theorem onlyReceiveStepsChangeRx : Obligations.OnlyReceiveStepsChangeRx := by
  intro i s t h
  cases exec_effect i s t h with
  | received b => exact .inr (.inl ⟨b, rfl, rfl⟩)
  | posted _ r validator idle =>
    by_cases hok : r.status = .ok
    · refine .inr (.inr (.inl ⟨validator, idle, r, rfl, hok, ?_⟩))
      rw [postResult_rx, consumed_ok r hok]
    · rw [postResult_not_ok r s hok]
      exact .inl rfl
  | flushed => exact .inr (.inr (.inr ⟨.inl rfl, rfl⟩))
  | cleared => exact .inr (.inr (.inr ⟨.inr rfl, rfl⟩))
  | kept | replied | wroteAddr | wroteExpect | took | encoded | sent => exact .inl rfl

/-- Settles O40: only `encoded`, `sent` and `cleared` touch the transmit queue, and only `sent` the wire. -/
theorem onlyTransmitStepsChangeTxq : Obligations.OnlyTransmitStepsChangeTxq := by
  intro i s t h
  cases exec_effect i s t h with
  | encoded k a p haddr => exact .inr (.inl ⟨k, a, p, rfl, haddr, rfl, rfl⟩)
  | sent b rest front => exact .inr (.inr (.inl ⟨b, rfl, front, rfl⟩))
  | cleared => exact .inr (.inr (.inr ⟨rfl, rfl, rfl⟩))
  | kept | replied | wroteAddr | wroteExpect | posted | took | flushed | received => exact .inl ⟨rfl, rfl⟩

/-- Settles O41: the validator posts only from `res` none, and `took`, `flushed` and `cleared` leave none. -/
theorem pendingResultIsKept : Obligations.PendingResultIsKept := by
  intro i s t h
  cases exec_effect i s t h with
  | posted _ r validator idle => exact .inr (.inl ⟨validator, idle, r, rfl⟩)
  | took => exact .inr (.inr ⟨.inl rfl, rfl⟩)
  | flushed => exact .inr (.inr ⟨.inr (.inl rfl), rfl⟩)
  | cleared => exact .inr (.inr ⟨.inr (.inr rfl), rfl⟩)
  | kept | replied | wroteAddr | wroteExpect | encoded | received | sent => exact .inl rfl

/-- Settles O1: the reset state and its signals, evaluated. -/
theorem resetLeavesSpecValues : Obligations.ResetLeavesSpecValues :=
  ⟨rfl, rfl, rfl, rfl, rfl, rfl, rfl, rfl⟩

end Sys2Proof.Machine
end

section
/-! Byte streams (R52, R57, R60): what a sequence of handshakes does to `rx`, `txq` and the bytes in transit, and why the
accumulator never stays full while the validator is on. -/

namespace Sys2Proof.Machine

theorem runOps_cons_next (i : Instr) (is : List Instr) (s t : State) (h : exec i s = .next t) :
    runOps (i :: is) s = runOps is t := by
  simp [runOps, h]

/-! ### Bytes out -/

/-- R121 along a run: each `TXB` moves the front byte, so `n` of them move the first `n`, in order. -/
theorem runOps_txbs (n : Nat) (s : State) (h : n ≤ s.txq.length) :
    runOps (txbs n) s = .next { s with txq := s.txq.drop n, txOut := s.txOut ++ s.txq.take n } := by
  induction n generalizing s with
  | zero => simp [txbs, runOps]
  | succ n ih =>
    cases hq : s.txq with
    | nil => simp [hq] at h
    | cons b rest =>
      have hfront : exec .txb s = .next { s with txq := rest, txOut := s.txOut ++ [b] } :=
        congrArg Host.Outcome.next (popTx_cons s b rest hq)
      have hrest : n ≤ rest.length := by simpa [hq] using h
      calc runOps (txbs (n + 1)) s
          = runOps (txbs n) { s with txq := rest, txOut := s.txOut ++ [b] } := runOps_cons_next _ _ _ _ hfront
        _ = .next { s with txq := rest.drop n, txOut := s.txOut ++ [b] ++ rest.take n } := ih _ hrest
        _ = .next { s with txq := (b :: rest).drop (n + 1), txOut := s.txOut ++ (b :: rest).take (n + 1) } := by simp

/-- Settles O14: `DRAIN` is the run of as many `TXB` as there are bytes queued. -/
theorem txbsYieldInOrder : Obligations.TxbsYieldInOrder := by
  refine fun s => ⟨fun n h => runOps_txbs n s h, ?_⟩
  rw [drain, runOps_txbs s.txq.length s (Nat.le_refl _), List.drop_length, List.take_length]

/-! ### Bytes in -/

theorem execRxb_enabled (b : Byte) (s : State) (h : s.rxReady = true) : execRxb b s = .next (pushRx b s) :=
  if_pos h

/-- R135 along a run: while they fit, the bytes go to the back of `rx` in the order they are delivered. -/
theorem runOps_rxs (bs : Bytes) (s : State) (h : ∀ n, s.cfg.rxCap = .bytes n → s.rx.length + bs.length ≤ n) :
    runOps (rxs bs) s = .next { s with rx := s.rx ++ bs } := by
  induction bs generalizing s with
  | nil => simp [rxs, runOps]
  | cons b bs ih =>
    simp only [List.length_cons] at h
    have room : s.rxReady = true := (rxReady_iff s).mpr fun n hn => by have := h n hn; omega
    have hrest : ∀ n, (pushRx b s).cfg.rxCap = .bytes n → (pushRx b s).rx.length + bs.length ≤ n := by
      intro n hn
      have := h n hn
      simp only [pushRx_rx, List.length_append, List.length_singleton]
      omega
    calc runOps (rxs (b :: bs)) s
        = runOps (rxs bs) (pushRx b s) := runOps_cons_next _ _ _ _ (execRxb_enabled b s room)
      _ = .next { pushRx b s with rx := (pushRx b s).rx ++ bs } := ih _ hrest
      _ = .next { s with rx := s.rx ++ b :: bs } := by simp [pushRx]

/-- Settles O17: both ways of cutting the string are runs of `RXB` steps that fit. -/
theorem rxsAppendInOrder : Obligations.RxsAppendInOrder := by
  intro bs cs s h
  constructor
  · rw [runOps_rxs (bs ++ cs) s, List.append_assoc]
    intro n hn
    rw [List.length_append, ← Nat.add_assoc]
    exact h n hn
  · refine runOps_rxs cs { s with rx := s.rx ++ bs } fun n hn => ?_
    rw [List.length_append]
    exact h n hn

/-! ### The handshake and the validator -/

/-- R9 leaves room for every byte `PARSE` can wait for: the least number it examines, or the rest of a frame with a
sound length. -/
theorem rxReady_of_too_short (s : State) (hcfg : s.cfg.ok = true)
    (h : s.rx.length < 12 ∨ (2 ≤ (lenAt s.rx).toNat ∧ (lenAt s.rx).toNat - 2 ≤ s.cfg.maxPay
      ∧ s.rx.length < (lenAt s.rx).toNat + 9)) : s.rxReady = true := by
  obtain ⟨-, floor, longest, -⟩ := (config_ok_iff s.cfg).mp hcfg
  rcases h with short | ⟨two, sound, partly⟩
  · exact holds_mono _ _ _ short floor
  · exact holds_mono _ _ _ (by omega) longest

/-- Settles O29: either `PARSE` is enabled and posts its Result, or it waits for bytes and R9 leaves room for one. -/
theorem fullAccumulatorNeverBlocksTheValidator : Obligations.FullAccumulatorNeverBlocksTheValidator := by
  intro s a hcfg hres hexp haddr
  cases hp : s.parseEnabled with
  | true => exact .inr ⟨_, _, execParse_enabled s a haddr hp, postResult_res s _⟩
  | false =>
    have waits := (parseEnabled_eq_false s).mp hp
    simp only [hres, hexp, haddr, ne_eq, not_true_eq_false, reduceCtorEq, false_or] at waits
    exact .inl fun b => execRxb_enabled b s (rxReady_of_too_short s hcfg waits)

/-- Settles O37: with a byte held, `advance` hands it over exactly when `RXB` has room to append it. -/
theorem offeredByteIsNeverLost : Obligations.OfferedByteIsNeverLost := by
  intro s rest hr h
  cases hb : s.rxHeld with
  | nil =>
    refine ⟨_, step_of_fetch_none s hr (fetch_tin_idle s rest h hb), ?_⟩
    rw [advance_tin_idle s rest h hb]
    exact ⟨by rw [hb], rfl⟩
  | cons b held =>
    have hstep := step_of_fetch s _ hr (fetch_tin s b held rest h hb)
    rw [advance_tin s rest h, hb] at hstep
    cases hroom : s.rxReady with
    | true =>
      rw [hroom] at hstep
      exact ⟨_, hstep.trans (execRxb_enabled b _ hroom), by simp, rfl⟩
    | false =>
      rw [hroom] at hstep
      exact ⟨_, hstep.trans (execRxb_disabled b _ hroom), rfl, rfl⟩

end Sys2Proof.Machine
end

section
/-! Encodings (R70, R76, R84, R85): the decoder takes an operation's word back to the operation, the host port's numbers
are those of the table of R84, and a table word placed at the fetch is the one the next step runs. -/

namespace Sys2Proof

/-! ### Frames -/

/-- R76: the decoder takes the `len` bytes behind the head and looks at nothing after them. -/
theorem decode_frameBytes_append (k : Kind) (addr : Word) (len : Half) (body rest : Bytes)
    (h : bodyFits len body = true) :
    decode (.frame (frameBytes k addr len body ++ rest)) = frameInstr k addr len body := by
  simp only [decode, frameBytes, decodeFrame_head k addr len body rest h]

theorem decode_frameBytes (k : Kind) (addr : Word) (len : Half) (body : Bytes) (h : bodyFits len body = true) :
    decode (.frame (frameBytes k addr len body)) = frameInstr k addr len body := by
  have hrest := decode_frameBytes_append k addr len body [] h
  rwa [List.append_nil] at hrest

/-! ### Host transactions -/

theorem decode_encode_csum (k : Kind) (p : Bytes) : decode (encode (.csum k p)) = .csum k p :=
  congrArg (Instr.csum · p) (Kind.ofCode_code k)

/-- The two bits of R84 and the kinds they select. -/
theorem Kind.ofCode_cases (c : BitVec 2) :
    (c = 0b00 ∧ Kind.ofCode c = .cmd) ∨ (c = 0b01 ∧ Kind.ofCode c = .dat) ∨ (c = 0b10 ∧ Kind.ofCode c = .ack)
      ∨ (c = 0b11 ∧ Kind.ofCode c = .fin) := by
  revert c
  decide

/-- R84: the low two bits of an encode operation's number select its kind. -/
theorem decode_op_encode (c k : BitVec 2) (a : Word) (m : BitVec 4) (p : Bytes) :
    decode (.op { op := 0b10#2 ++ c, a := a, m := m, k := k, p := p }) = encInstr (Kind.ofCode c) p := by
  rcases Kind.ofCode_cases c with ⟨rfl, -⟩ | ⟨rfl, -⟩ | ⟨rfl, -⟩ | ⟨rfl, -⟩ <;> rfl

/-! ### Table words -/

/-- The bytes of a table word that is a frame are decoded as the validator decodes them, so a table word's instruction
is that of the port word it stands for. -/
theorem decodeTableWord_eq_some (nbits w : Nat) (i : Instr) (h : decodeTableWord nbits w = some i) :
    ∃ pw : PortWord, tableWord nbits w = some pw ∧ decode pw = i := by
  unfold decodeTableWord at h
  split at h
  case h_1 => cases h
  case h_2 hword => exact ⟨_, hword, Option.some.inj h⟩
  case h_3 b bs hword =>
    refine ⟨_, hword, ?_⟩
    split at h
    case h_1 j hframe =>
      cases h
      simp only [decode, hframe]
    case h_2 => cases h
  case h_4 pw _ _ hword => exact ⟨pw, hword, Option.some.inj h⟩

end Sys2Proof

namespace Sys2Proof.Machine

@[simp] theorem place_rst (pw : PortWord) (s : State) : (place pw s).rst = false := by cases pw <;> rfl

@[simp] theorem fetch_place (pw : PortWord) (s : State) : fetch (place pw s) = some pw := by cases pw <;> rfl

@[simp] theorem place_sched_tail (pw : PortWord) (s : State) : (place pw s).sched.tail = s.sched := by cases pw <;> rfl

theorem withFetchWord_eq_place (s : State) (nbits w : Nat) (pw : PortWord) (h : tableWord nbits w = some pw) :
    s.withFetchWord nbits w = place pw s := by
  simp only [State.withFetchWord, h]

/-! ### The statements -/

/-- Settles O30: `decodeFrame_head` reads the four frame forms back, `Kind.ofCode_code` the kind of `CSUM`; every other
operand stands in its lane unchanged. -/
theorem decodeOfEncode : Obligations.DecodeOfEncode := by
  refine ⟨fun i hwf => ?_, decode_frameBytes_append⟩
  cases i with
  | frameCmd addr len body => exact decode_frameBytes .cmd addr len body hwf
  | frameDat addr len body => exact decode_frameBytes .dat addr len body hwf
  | frameAck addr len body => exact decode_frameBytes .ack addr len body hwf
  | frameEnd addr len body => exact decode_frameBytes .fin addr len body hwf
  | csum k p => exact decode_encode_csum k p
  | rdstat | rdaddr | wraddr | rdexp | wrexp | take | flush => rfl
  | encCmd | encDat | encAck | encEnd => rfl
  | reservedC | reservedD | reservedE | reset => rfl
  | rxb | txb | parse => rfl

/-- Settles O32: the sixteen numbers one by one, then `decode_op_encode` for the four of the form `0b10kk`. -/
theorem hostOperationNumbers : Obligations.HostOperationNumbers := by
  intro a m k p f hf
  obtain rfl : f = fun n => decode (.op { op := n, a := a, m := m, k := k, p := p }) := funext hf
  have csum : ∃ d : Kind, decode (.op { op := 0x5, a := a, m := m, k := k, p := p }) = .csum d p
      ∧ ((k = 0b00 ∧ d = .cmd) ∨ (k = 0b01 ∧ d = .dat) ∨ (k = 0b10 ∧ d = .ack) ∨ (k = 0b11 ∧ d = .fin)) :=
    ⟨Kind.ofCode k, rfl, Kind.ofCode_cases k⟩
  exact ⟨rfl, rfl, rfl, rfl, rfl, csum, rfl, rfl, rfl, rfl, rfl, rfl, rfl, rfl, rfl, rfl,
    fun c => decode_op_encode c k a m p⟩

/-- Settles O35: the table word is on its agent's port with that agent's turn first, so the step fetches it. -/
theorem fetchWordIsRun : Obligations.FetchWordIsRun := by
  intro nbits w i s h
  obtain ⟨pw, hword, rfl⟩ := decodeTableWord_eq_some nbits w i h
  rw [withFetchWord_eq_place s nbits w pw hword]
  exact ⟨step_of_fetch _ pw (place_rst pw s) (fetch_place pw s), by rw [advance_sched, place_sched_tail]⟩

end Sys2Proof.Machine
end

section
/-! The checksum generator (40_checksum.md): its value as one sum over the bytes it covers, so that neither their order
(R101) nor the place of a changed byte (R103) matters. -/

namespace Sys2Proof

/-! ### Sums of bytes -/

theorem sumBytes_perm (p q : Bytes) (h : p.Perm q) : sumBytes p = sumBytes q := by
  rw [sumBytes_eq_sum, sumBytes_eq_sum]
  exact (h.map BitVec.toNat).sum_eq

theorem sumBytes_set (p : Bytes) (i : Nat) (c : Byte) (h : i < p.length) :
    sumBytes (p.set i c) + p[i].toNat = sumBytes p + c.toNat := by
  induction p generalizing i with
  | nil => cases h
  | cons b p ih =>
    cases i with
    | zero => simp only [List.set_cons_zero, List.getElem_cons_zero, sumBytes]; omega
    | succ i =>
      have hrest := ih i (Nat.lt_of_succ_lt_succ h)
      simp only [List.set_cons_succ, List.getElem_cons_succ, sumBytes]
      omega

/-- The byte-serial generator of R101, from any contents of its register. -/
theorem foldl_add_byte (p : Bytes) (acc : Half) :
    p.foldl (fun acc b => acc + b.setWidth 16) acc = acc + BitVec.ofNat 16 (sumBytes p) := by
  induction p generalizing acc with
  | nil => simp [sumBytes]
  | cons b p ih => rw [List.foldl_cons, ih, sumBytes, BitVec.ofNat_add, BitVec.add_assoc, BitVec.ofNat_toNat]

/-! ### The checksum -/

/-- R100 as one sum, over the covered bytes in the order they go on the wire. -/
theorem csum16_eq_ofNat_sumBytes (pid : Byte) (len : Half) (p : Bytes) :
    csum16 pid len p = BitVec.ofNat 16 (sumBytes ([pid, len.extractLsb' 8 8, len.extractLsb' 0 8] ++ p)) := by
  simp [csum16, sumBytes, Nat.add_assoc]

theorem csum16_toNat (pid : Byte) (len : Half) (p : Bytes) : (csum16 pid len p).toNat
    = (pid.toNat + (len.extractLsb' 8 8).toNat + (len.extractLsb' 0 8).toNat + sumBytes p) % 65536 :=
  BitVec.toNat_ofNat _ 16

/-- Settles O10: the register holds the sum of the bytes, and a sum does not depend on their order. -/
theorem checksumByteSerial : Obligations.ChecksumByteSerial := by
  intro pid len p order h
  rw [foldl_add_byte, zero_add, sumBytes_perm _ _ h, ← csum16_eq_ofNat_sumBytes]

/-! ### One changed byte -/

/-- R103: two bytes differ by less than 256, so sums that differ in one byte differ modulo 65536. -/
theorem mod_ne_of_byte_ne (m n : Nat) (b c : Byte) (hne : b ≠ c) (h : m + c.toNat = n + b.toNat) :
    m % 65536 ≠ n % 65536 := by
  have hval : b.toNat ≠ c.toNat := mt BitVec.eq_of_toNat_eq hne
  have hb := b.isLt
  have hc := c.isLt
  omega

theorem csum16_payload_byte_ne (pid : Byte) (len : Half) (p : Bytes) (i : Nat) (c : Byte) (h : i < p.length)
    (hne : c ≠ p[i]) : csum16 pid len (p.set i c) ≠ csum16 pid len p := by
  have hsum := sumBytes_set p i c h
  rw [ne_eq, ← BitVec.toNat_inj, csum16_toNat, csum16_toNat]
  exact mod_ne_of_byte_ne _ _ c p[i] hne (by omega)

theorem csum16_pid_ne (pid pid' : Byte) (len : Half) (p : Bytes) (hne : pid' ≠ pid) :
    csum16 pid' len p ≠ csum16 pid len p := by
  rw [ne_eq, ← BitVec.toNat_inj, csum16_toNat, csum16_toNat]
  exact mod_ne_of_byte_ne _ _ pid' pid hne (by omega)

/-- Only one of the two length bytes may change: swapping them keeps their sum. -/
theorem csum16_len_ne (pid : Byte) (len len' : Half) (p : Bytes) (hne : len' ≠ len)
    (hone : len'.extractLsb' 8 8 = len.extractLsb' 8 8 ∨ len'.extractLsb' 0 8 = len.extractLsb' 0 8) :
    csum16 pid len' p ≠ csum16 pid len p := by
  have hbytes : len'.extractLsb' 8 8 = len.extractLsb' 8 8 → len'.extractLsb' 0 8 ≠ len.extractLsb' 0 8 := by
    intro hhi hlo
    rw [← u16_be16 len', hhi, hlo, u16_be16] at hne
    exact hne rfl
  rw [ne_eq, ← BitVec.toNat_inj, csum16_toNat, csum16_toNat]
  rcases hone with hhi | hlo
  · exact mod_ne_of_byte_ne _ _ _ _ (hbytes hhi) (by rw [hhi]; omega)
  · exact mod_ne_of_byte_ne _ _ _ _ (fun hhi => hbytes hhi hlo) (by rw [hlo]; omega)

/-! ### One flipped bit -/

theorem flip_bit_ne {w : Nat} (v : BitVec w) (k : Nat) (h : k < w) : v ^^^ (1#w <<< k) ≠ v := by
  intro heq
  have hbit : (v ^^^ (1#w <<< k)).getLsbD k = v.getLsbD k := by rw [heq]
  simp [h] at hbit

/-- A byte of a field that does not hold bit `k` stays as it is when bit `k` flips. -/
theorem extractLsb'_flip_bit {w : Nat} (v : BitVec w) (start k : Nat) (h : k < start ∨ start + 8 ≤ k) :
    (v ^^^ (1#w <<< k)).extractLsb' start 8 = v.extractLsb' start 8 := by
  apply BitVec.eq_of_getLsbD_eq
  intro i hi
  have houtside : start + i ≠ k := by omega
  have hzero : (1#w <<< k).getLsbD (start + i) = false := by
    simp; omega
  simp [hzero]

/-- Settles O11: a flipped bit changes the one byte that holds it, and one changed byte changes the sum. -/
theorem checksumDetectsSingleBitFlip : Obligations.ChecksumDetectsSingleBitFlip := by
  intro pid len p
  refine ⟨fun i k hk h => ?payload, fun k hk => ?pid, fun k hk => ?len⟩
  case payload => exact csum16_payload_byte_ne pid len p i _ h (flip_bit_ne p[i] k hk)
  case pid => exact csum16_pid_ne pid _ len p (flip_bit_ne pid k hk)
  case len =>
    refine csum16_len_ne pid len _ p (flip_bit_ne len k hk) ?_
    rcases Nat.lt_or_ge k 8 with low | high
    · exact .inl (extractLsb'_flip_bit len 8 k (.inl low))
    · exact .inr (extractLsb'_flip_bit len 0 k (.inr high))

end Sys2Proof

namespace Sys2Proof.Machine

/-! ### The operation -/

theorem execCsum_fits (k : Kind) (p : Bytes) (s : State) (h : p.length ≤ s.cfg.maxPay) :
    execCsum k p s = .next (answer (.sum (csum16 k.pid (lenField p) p)) s) :=
  if_neg (Nat.not_lt.mpr h)

theorem execCsum_too_long (k : Kind) (p : Bytes) (s : State) (h : s.cfg.maxPay < p.length) :
    execCsum k p s = .next (refuse .payloadTooLong s) :=
  if_pos h

/-- R100 for a frame's own length field: `len(p) + 2` fits 16 bits, so its two bytes are its quotient and remainder. -/
theorem csum16_lenField_toNat (pid : Byte) (p : Bytes) (h : p.length ≤ 65533) :
    (csum16 pid (lenField p) p).toNat
      = (pid.toNat + (p.length + 2) / 256 + (p.length + 2) % 256 + (p.map BitVec.toNat).sum) % 65536 := by
  have hhi : ((lenField p).extractLsb' 8 8).toNat = (p.length + 2) / 256 := by
    rw [BitVec.extractLsb'_toNat, lenField_toNat p h, Nat.shiftRight_eq_div_pow]
    omega
  have hlo : ((lenField p).extractLsb' 0 8).toNat = (p.length + 2) % 256 := by
    rw [BitVec.extractLsb'_toNat, lenField_toNat p h, Nat.shiftRight_zero]
  rw [csum16_toNat, hhi, hlo, sumBytes_eq_sum]

/-- Settles O9: R9 bounds `MAXPAY` by 65533, so the length field of a payload that is not refused is exact. -/
theorem csumRepliesChecksum : Obligations.CsumRepliesChecksum := by
  intro k p s hcfg
  obtain ⟨hmax, -⟩ := (config_ok_iff s.cfg).mp hcfg
  refine ⟨fun hp => ⟨csum16 k.pid (lenField p) p, ?_, ?_⟩, execCsum_too_long k p s⟩
  · exact execCsum_fits k p s hp
  · exact csum16_lenField_toNat k.pid p (hp.trans hmax)

end Sys2Proof.Machine
end

section
/-! The encoder (41_encoder.md) and the link: what `ENC.*` puts in the transmit queue, how the fields of a frame
are read back from its bytes (R122), and what the validator makes of a frame it receives (R138). -/

namespace Sys2Proof

/-! ### The bytes of a frame -/

theorem extractLsb'_eq_ofNat_div {w : Nat} (v : BitVec w) (start : Nat) :
    v.extractLsb' start 8 = BitVec.ofNat 8 (v.toNat / 2 ^ start) :=
  congrArg (BitVec.ofNat 8) (Nat.shiftRight_eq_div_pow v.toNat start)

/-- R13 in numbers: the four bytes of an address, most significant first. -/
theorem be32_eq_ofNat (v : Word) : be32 v = [BitVec.ofNat 8 (v.toNat / 2 ^ 24), BitVec.ofNat 8 (v.toNat / 2 ^ 16),
    BitVec.ofNat 8 (v.toNat / 2 ^ 8), BitVec.ofNat 8 v.toNat] := by
  simp only [be32, extractLsb'_eq_ofNat_div, pow_zero, Nat.div_one]

/-- R13 in numbers: the two bytes of a length or a checksum, the upper one first. -/
theorem be16_eq_ofNat (v : Half) : be16 v = [BitVec.ofNat 8 (v.toNat / 256), BitVec.ofNat 8 v.toNat] := by
  simp only [be16, extractLsb'_eq_ofNat_div, pow_zero, Nat.div_one, Nat.reducePow]

/-- R115 in numbers, where the length field does not wrap. -/
theorem encodeFrame_eq_ofNat (pid : Byte) (a : Word) (p : Bytes) (h : p.length ≤ 65533) :
    encodeFrame pid a p
      = [0xEF, 0x01, BitVec.ofNat 8 (a.toNat / 2 ^ 24), BitVec.ofNat 8 (a.toNat / 2 ^ 16),
          BitVec.ofNat 8 (a.toNat / 2 ^ 8), BitVec.ofNat 8 a.toNat, pid, BitVec.ofNat 8 ((p.length + 2) / 256),
          BitVec.ofNat 8 (p.length + 2)]
        ++ p ++ be16 (csum16 pid (lenField p) p) := by
  simp only [encodeFrame, frameHead, framePrefix, be32_eq_ofNat, be16_eq_ofNat (lenField p), lenField_toNat p h, hdr0,
    hdr1, List.cons_append, List.nil_append]

/-! ### Reading the fields back -/

theorem encodeFrame_head_tail (pid : Byte) (a : Word) (p : Bytes) :
    encodeFrame pid a p = frameHead pid a (lenField p) ++ (p ++ be16 (csum16 pid (lenField p) p)) := by
  rw [encodeFrame, List.append_assoc]

@[simp] theorem byteAt_encodeFrame_pid (pid : Byte) (a : Word) (p : Bytes) : byteAt (encodeFrame pid a p) 6 = pid := by
  rw [encodeFrame_head_tail, byteAt_head_pid]

@[simp] theorem addrAt_encodeFrame (pid : Byte) (a : Word) (p : Bytes) : addrAt (encodeFrame pid a p) = a := by
  rw [encodeFrame_head_tail, addrAt_head]

/-- R122 (b). The packet id and the address stand at fixed places, and as many bytes as the frame has beyond its
overhead are the payload. -/
theorem encodeFrame_injective (pid pid' : Byte) (a a' : Word) (p p' : Bytes)
    (h : encodeFrame pid a p = encodeFrame pid' a' p') : pid = pid' ∧ a = a' ∧ p = p' := by
  have hpid : pid = pid' := by simpa using congrArg (byteAt · 6) h
  have haddr : a = a' := by simpa using congrArg addrAt h
  have hlen : p.length = p'.length := by simpa using congrArg List.length h
  rw [encodeFrame_head_tail, encodeFrame_head_tail] at h
  have hbody := List.append_inj_right h rfl
  exact ⟨hpid, haddr, List.append_inj_left hbody hlen⟩

end Sys2Proof

namespace Sys2Proof.Machine

/-- Settles O15: the length by its parts, the fields by reading them back. -/
theorem encodeLengthAndInjective : Obligations.EncodeLengthAndInjective :=
  ⟨encodeFrame_length, fun pid pid' a a' p p' _ _ => encodeFrame_injective pid pid' a a' p p'⟩

/-! ### The encode step, test by test (R115) -/

section
variable (k : Kind) (p : Bytes) (s : State) (a : Word)

theorem encodeInto_unconfigured (ha : s.addr = none) : encodeInto k p s = refuse .unconfigured s := by
  simp only [encodeInto, ha]

theorem encodeInto_too_long (ha : s.addr = some a) (long : s.cfg.maxPay < p.length) :
    encodeInto k p s = refuse .payloadTooLong s := by
  simp only [encodeInto, ha, if_pos long]

theorem encodeInto_full (ha : s.addr = some a) (short : p.length ≤ s.cfg.maxPay)
    (full : s.cfg.txCap.holds (s.txq.length + 11 + p.length) = false) : encodeInto k p s = refuse .txFull s := by
  simp [encodeInto, ha, Nat.not_lt.mpr short, overhead, full]

theorem encodeInto_fits (ha : s.addr = some a) (short : p.length ≤ s.cfg.maxPay)
    (room : s.cfg.txCap.holds (s.txq.length + 11 + p.length) = true) :
    encodeInto k p s = answer .done (pushTx (encodeFrame k.pid a p) s) := by
  simp [encodeInto, ha, Nat.not_lt.mpr short, overhead, room]

end

/-- Settles O12: the operation is `encodeInto` of its kind, and each of the four conditions is one of its cases. -/
theorem encAppendsWholeFrameOrRefuses : Obligations.EncAppendsWholeFrameOrRefuses := by
  intro i pid p s hcfg hi
  obtain ⟨hmax, -⟩ := (config_ok_iff s.cfg).mp hcfg
  obtain ⟨k, rfl, rfl⟩ : ∃ k : Kind, i = encInstr k p ∧ pid = k.pid := by
    rcases hi with ⟨rfl, rfl⟩ | ⟨rfl, rfl⟩ | ⟨rfl, rfl⟩ | ⟨rfl, rfl⟩
    exacts [⟨.cmd, rfl, rfl⟩, ⟨.dat, rfl, rfl⟩, ⟨.ack, rfl, rfl⟩, ⟨.fin, rfl, rfl⟩]
  rw [exec_encInstr]
  refine ⟨fun ha => ?unconfigured, fun a ha => ⟨fun long => ?tooLong, fun short n hn more => ?full,
    fun short fits c hc => ?appended⟩⟩
  case unconfigured => rw [encodeInto_unconfigured k p s ha]; rfl
  case tooLong => rw [encodeInto_too_long k p s a ha long]; rfl
  case full =>
    have full : s.cfg.txCap.holds (s.txq.length + 11 + p.length) = false := by
      simpa [hn, Cap.holds] using more
    rw [encodeInto_full k p s a ha short full]; rfl
  case appended =>
    have hsum : (csum16 k.pid (lenField p) p).toNat = c :=
      (csum16_lenField_toNat k.pid p (short.trans hmax)).trans hc.symm
    rw [encodeInto_fits k p s a ha short ((holds_iff _ _).mpr fits), encodeFrame_eq_ofNat k.pid a p (short.trans hmax),
      be16_eq_ofNat, hsum]
    rfl

/-- Settles O13: `popTx` on a queue with a front byte. -/
theorem txbYieldsFrontByte : Obligations.TxbYieldsFrontByte :=
  fun s b rest h => congrArg Host.Outcome.next (popTx_cons s b rest h)

/-! ### The validator on a frame with a true length field -/

theorem prefixOk_head (pid : Byte) (a : Word) (len : Half) (bs : Bytes) :
    prefixOk a (frameHead pid a len ++ bs) = true :=
  beq_self_eq_true (framePrefix a)

theorem slice_between (front p rest : Bytes) :
    slice (front ++ (p ++ rest)) front.length (front.length + p.length) = p := by
  simp [slice]

theorem byteAt_behind (front p rest : Bytes) (i : Nat) :
    byteAt (front ++ (p ++ rest)) (front.length + p.length + i) = byteAt rest i := by
  rw [← List.append_assoc, ← List.length_append, byteAt_append_right]

/-- R138's body on a frame with the address in force, whatever its packet id and checksum are: the payload and the
received checksum are read from the places the length field gives. -/
theorem examine_frame (cfg : Config) (a : Word) (expect : BitVec 4) (pid : Byte) (len rc : Half) (p rest rx : Bytes)
    (hlen : len.toNat = p.length + 2) (hrx : rx = frameHead pid a len ++ (p ++ (be16 rc ++ rest))) :
    examine cfg a expect rx
      = verdict (causeBits false (!accepts expect pid) (lenBad cfg len)) pid len p rc := by
  have hn : len.toNat - 2 = p.length := Nat.sub_eq_of_eq_add hlen
  have hprefix : prefixOk a rx = true := by rw [hrx, prefixOk_head]
  have hpid : byteAt rx 6 = pid := by rw [hrx, byteAt_head_pid]
  have hfield : lenAt rx = len := by rw [hrx, lenAt_head]
  have hpayload : slice rx headLen (headLen + p.length) = p := by
    rw [hrx]; exact slice_between (frameHead pid a len) p (be16 rc ++ rest)
  have hsum (i : Nat) : byteAt rx (headLen + p.length + i) = byteAt (be16 rc ++ rest) i := by
    rw [hrx]; exact byteAt_behind (frameHead pid a len) p (be16 rc ++ rest) i
  have hrc : u16 (byteAt rx (headLen + p.length)) (byteAt rx (headLen + 1 + p.length)) = rc := by
    rw [Nat.add_right_comm, hsum 1, ← Nat.add_zero (headLen + p.length), hsum 0]
    exact u16_be16 rc
  simp only [examine, hprefix, hpid, hfield, hn, hpayload, hrc, Bool.not_true]

section
variable (s : State) (a : Word) (k : Kind) (p rest : Bytes)

/-- R138: a frame for this device, of a kind in the mask and with a payload within `MAXPAY`, is judged by its checksum
alone. -/
theorem execParse_frame (rc : Half) (hcfg : s.cfg.ok = true) (hres : s.res = none) (haddr : s.addr = some a)
    (hmask : s.expect.getLsbD k.bit = true) (short : p.length ≤ s.cfg.maxPay) (floor : 12 ≤ s.rx.length)
    (hrx : s.rx = frameHead k.pid a (lenField p) ++ (p ++ (be16 rc ++ rest))) :
    execParse s = .next (postResult (verdict 0 k.pid (lenField p) p rc) s) := by
  obtain ⟨hmax, -⟩ := (config_ok_iff s.cfg).mp hcfg
  have hlen : (lenField p).toNat = p.length + 2 := lenField_toNat p (short.trans hmax)
  have sound : lenBad s.cfg (lenField p) = false := (lenBad_eq_false _ _).mpr (by omega)
  have hexpect : s.expect ≠ 0 := fun zero => by simp [zero] at hmask
  have complete : frameComplete s.cfg s.rx = true := by
    refine (frameComplete_iff _ _).mpr (.inr ?_)
    have hlength : s.rx.length = headLen + (p.length + (2 + rest.length)) := by simp [hrx]
    rw [hlength, hrx, lenAt_head, hlen, headLen]
    omega
  have enabled : s.parseEnabled = true := (parseEnabled_iff s).mpr ⟨hres, hexpect, by simp [haddr], floor, complete⟩
  have noCause : causeBits false (!accepts s.expect k.pid) (lenBad s.cfg (lenField p)) = 0 :=
    (causeBits_eq_zero _ _ _).mpr ⟨rfl, by simp [hmask], sound⟩
  rw [execParse_enabled s a haddr enabled, examine_frame _ a _ _ _ rc p rest _ hlen hrx, noCause]

/-- R143 for an encoded frame: the Result carries its packet id and payload, and exactly its bytes leave `rx`. -/
theorem execParse_encodeFrame (hcfg : s.cfg.ok = true) (hres : s.res = none) (haddr : s.addr = some a)
    (hmask : s.expect.getLsbD k.bit = true) (short : p.length ≤ s.cfg.maxPay) (floor : 12 ≤ s.rx.length)
    (hrx : s.rx = encodeFrame k.pid a p ++ rest) :
    execParse s = .next { s with
      res := some { status := .ok, cause := 0, pid := k.pid, len := lenField p, payload := p }, rx := rest } := by
  obtain ⟨hmax, -⟩ := (config_ok_iff s.cfg).mp hcfg
  have hparse := execParse_frame s a k p rest (csum16 k.pid (lenField p) p) hcfg hres haddr hmask short floor
    (by rw [hrx, encodeFrame_eq, List.append_assoc, List.append_assoc])
  have hconsumed : (lenField p).toNat + 9 = (encodeFrame k.pid a p).length := by
    rw [lenField_toNat p (short.trans hmax), encodeFrame_length]; omega
  rw [hparse, verdict_ok, postResult, consumed_ok _ rfl, hrx, hconsumed, List.drop_left]

end

/-! ### Runs -/

theorem runOps_append_next (is js : List Instr) (s t : State) (h : runOps is s = .next t) :
    runOps (is ++ js) s = runOps js t := by
  induction is generalizing s with
  | nil => cases h; rfl
  | cons i is ih =>
    cases he : exec i s with
    | next u =>
      rw [runOps_cons_next i is s u he] at h
      rw [List.cons_append, runOps_cons_next i _ s u he]
      exact ih u h
    | fault r | refused r => simp [runOps, he] at h

/-- Settles O47: the `RXB` steps leave the frame and the tail in `rx`, where `PARSE` finds the frame in front. -/
theorem encodeThenParseRoundTrip : Obligations.EncodeThenParseRoundTrip := by
  intro k a p tail s hcfg short hrx hres haddr hmask hempty room
  have hlength : (encodeFrame k.pid a p ++ tail).length = 11 + p.length + tail.length := by
    rw [List.length_append, encodeFrame_length]
  have received : runOps (rxs (encodeFrame k.pid a p ++ tail)) s
      = .next { s with rx := encodeFrame k.pid a p ++ tail } := by
    have run := runOps_rxs (encodeFrame k.pid a p ++ tail) s fun n hn => by
      rw [hrx, hlength, List.length_nil, Nat.zero_add]; exact room n hn
    rwa [hrx] at run
  have floor : 12 ≤ (encodeFrame k.pid a p ++ tail).length := by
    have nonempty : p.length ≠ 0 ∨ tail.length ≠ 0 := by
      simpa only [ne_eq, List.length_eq_zero_iff, or_iff_not_imp_left, not_not] using hempty
    omega
  rw [runOps_append_next _ _ _ _ received,
    runOps_cons_next .parse [] _ _ (execParse_encodeFrame { s with rx := encodeFrame k.pid a p ++ tail } a k p tail
      hcfg hres haddr hmask short floor rfl)]
  rfl

/-! ### The link -/

/-- `ENC.*` into an empty queue and as many `TXB` as the frame has bytes: the frame is on the wire. -/
theorem runOps_encode_txbs (k : Kind) (p : Bytes) (s : State) (a : Word) (hcfg : s.cfg.ok = true)
    (short : p.length ≤ s.cfg.maxPay) (haddr : s.addr = some a) (htxq : s.txq = []) :
    runOps (encInstr k p :: txbs (11 + p.length)) s
      = .next { s with txq := [], reply := some .done, txOut := s.txOut ++ encodeFrame k.pid a p } := by
  obtain ⟨-, -, -, cap⟩ := (config_ok_iff s.cfg).mp hcfg
  have room : s.cfg.txCap.holds (s.txq.length + 11 + p.length) = true :=
    holds_mono _ _ _ (by rw [htxq, List.length_nil]; omega) cap
  have queued : (answer .done (pushTx (encodeFrame k.pid a p) s)).txq = encodeFrame k.pid a p := by
    rw [answer_txq, pushTx_txq, htxq, List.nil_append]
  have encoded : exec (encInstr k p) s = .next (answer .done (pushTx (encodeFrame k.pid a p) s)) := by
    rw [exec_encInstr, encodeInto_fits k p s a haddr short room]
  rw [runOps_cons_next _ _ _ _ encoded, ← encodeFrame_length k.pid a p, runOps_txbs _ _ (by rw [queued]), queued,
    List.drop_length, List.take_length]
  rfl

/-- Settles O48: the wire carries the encoded frame, so the receiver's half is the round trip with no tail. -/
theorem senderToReceiver : Obligations.SenderToReceiver := by
  intro k a p s r hne hs hr shortS shortR haddrS haddrR htxq hrx hres hmask
  refine ⟨_, encodeFrame k.pid a p, runOps_encode_txbs k p s a hs shortS haddrS htxq, rfl, rfl, ?_⟩
  obtain ⟨-, -, cap, -⟩ := (config_ok_iff r.cfg).mp hr
  have room : ∀ n, r.cfg.rxCap = .bytes n → 11 + p.length + ([] : Bytes).length ≤ n :=
    (holds_iff _ _).mp (holds_mono _ _ _ (by rw [List.length_nil]; omega) cap)
  have received := encodeThenParseRoundTrip k a p [] r hr shortR hrx hres haddrR hmask (fun h => absurd h hne) room
  rwa [List.append_nil] at received

end Sys2Proof.Machine
end

section
/-! Frames among other bytes (R70, R76): what the frame decoder accepts is a frame row's bytes with anything behind, and
which heads those are. -/

namespace Sys2Proof

/-! ### The fields of a head -/

theorem be16_u16 (hi lo : Byte) : be16 (u16 hi lo) = [hi, lo] := by
  rw [be16, u16, BitVec.extractLsb'_append_eq_left, BitVec.extractLsb'_append_eq_right]

theorem be32_u32 (b0 b1 b2 b3 : Byte) : be32 (u32 b0 b1 b2 b3) = [b0, b1, b2, b3] := by
  have above {w : Nat} (hi : BitVec w) (lo : Byte) (i : Nat) :
      (hi ++ lo).extractLsb' (i + 8) 8 = hi.extractLsb' i 8 :=
    BitVec.extractLsb'_append_eq_of_le (Nat.le_add_left 8 i)
  rw [be32, u32, above _ b3 16, above _ b2 8, above _ b3 8, above _ b3 0, above _ b2 0]
  simp only [BitVec.extractLsb'_append_eq_left, BitVec.extractLsb'_append_eq_right]

theorem drop_eq_byteAt_cons (s : Bytes) (i : Nat) (h : i < s.length) : s.drop i = byteAt s i :: s.drop (i + 1) := by
  rw [byteAt, List.getD_eq_getElem s 0 h, List.drop_eq_getElem_cons h]

/-- Bytes that begin with the header are a head (R70) and the bytes behind it. -/
theorem eq_frameHead_append_drop (bs : Bytes) (long : headLen ≤ bs.length) (h0 : byteAt bs 0 = hdr0)
    (h1 : byteAt bs 1 = hdr1) : bs = frameHead (byteAt bs 6) (addrAt bs) (lenAt bs) ++ bs.drop headLen := by
  have next (i : Nat) (hi : i < headLen) : bs.drop i = byteAt bs i :: bs.drop (i + 1) :=
    drop_eq_byteAt_cons bs i (hi.trans_le long)
  have head : bs = [byteAt bs 0, byteAt bs 1, byteAt bs 2, byteAt bs 3, byteAt bs 4, byteAt bs 5, byteAt bs 6,
      byteAt bs 7, byteAt bs 8] ++ bs.drop headLen := by
    conv_lhs => rw [← bs.drop_zero, next 0 (by decide), next 1 (by decide), next 2 (by decide), next 3 (by decide),
      next 4 (by decide), next 5 (by decide), next 6 (by decide), next 7 (by decide), next 8 (by decide)]
    rfl
  conv_lhs => rw [head, h0, h1]
  rw [frameHead, framePrefix, addrAt, lenAt, be32_u32, be16_u16]
  rfl

/-! ### What the frame decoder accepts -/

theorem decodeFrame_eq_ok (bs : Bytes) (i : Instr) (h : decodeFrame bs = .ok i) :
    ∃ (k : Kind) (addr : Word) (len : Half) (body rest : Bytes), i = frameInstr k addr len body
      ∧ bodyFits len body = true ∧ bs = frameBytes k addr len body ++ rest := by
  unfold decodeFrame at h
  split at h
  · cases h
  next long =>
    split at h
    · cases h
    next header =>
      split at h
      · cases h
      next k hk =>
        split at h
        · cases h
        next whole =>
          cases h
          simp only [not_or, not_not] at header
          obtain ⟨h0, h1⟩ := header
          refine ⟨k, addrAt bs, lenAt bs, _, (bs.drop headLen).drop (lenAt bs).toNat, rfl, ?fits, ?bytes⟩
          case fits =>
            simp only [bodyFits, beq_iff_eq, List.length_take, List.length_drop]
            omega
          case bytes =>
            rw [frameBytes, List.append_assoc, List.take_append_drop, ← (Kind.ofPid_eq_some _ k).mp hk]
            exact eq_frameHead_append_drop bs (Nat.not_lt.mp long) h0 h1

theorem frameInstr_kind_injective (k k' : Kind) (addr addr' : Word) (len len' : Half) (body body' : Bytes)
    (h : frameInstr k addr len body = frameInstr k' addr' len' body') : k = k' := by
  revert h
  cases k <;> cases k' <;> simp [frameInstr]

/-! ### The 72-bit head (R70) -/

/-- The header, address, packet id and length of a head stand in its bits from the top down. -/
theorem headOfNumber_eq (v : BitVec 72) :
    headOfNumber v = [v.extractLsb' 64 8, v.extractLsb' 56 8] ++ be32 (v.extractLsb' 24 32) ++ [v.extractLsb' 16 8]
      ++ be16 (v.extractLsb' 0 16) := by
  have inner (start len off : Nat) (h : off + 8 ≤ len) :
      (v.extractLsb' start len).extractLsb' off 8 = v.extractLsb' (start + off) 8 := by
    ext j hj
    simp [Nat.add_assoc]
    omega
  rw [be32, be16, inner 24 32 24 (by decide), inner 24 32 16 (by decide), inner 24 32 8 (by decide),
    inner 24 32 0 (by decide), inner 0 16 8 (by decide), inner 0 16 0 (by decide)]
  rfl

/-- The match value of the frame row with packet id `pid`: the header and `pid`, the operand fields zero. -/
def rowMatch (pid : Byte) : BitVec 72 :=
  hdr0 ++ hdr1 ++ 0#32 ++ pid ++ 0#16

theorem head_fields (v : BitVec 72) :
    v = v.extractLsb' 64 8 ++ v.extractLsb' 56 8 ++ v.extractLsb' 24 32 ++ v.extractLsb' 16 8
      ++ v.extractLsb' 0 16 := by
  rw [BitVec.extractLsb'_append_extractLsb'_eq_extractLsb' (by rfl),
    BitVec.extractLsb'_append_extractLsb'_eq_extractLsb' (by rfl),
    BitVec.extractLsb'_append_extractLsb'_eq_extractLsb' (by rfl),
    BitVec.extractLsb'_append_extractLsb'_eq_extractLsb' (by rfl)]
  exact (BitVec.extractLsb'_eq_self).symm

theorem bitVec_append_eq_append_iff {m n : Nat} (x x' : BitVec m) (y y' : BitVec n) :
    x ++ y = x' ++ y' ↔ x = x' ∧ y = y' := by
  refine ⟨fun h => ⟨?_, ?_⟩, fun ⟨hx, hy⟩ => by rw [hx, hy]⟩
  · simpa only [BitVec.extractLsb'_append_eq_left] using congrArg (BitVec.extractLsb' n m) h
  · simpa only [BitVec.extractLsb'_append_eq_right] using congrArg (BitVec.extractLsb' 0 n) h

/-- R152 to R155: the mask keeps the header and the packet id. -/
theorem masked_head_eq_rowMatch_iff (v : BitVec 72) (pid : Byte) : v &&& 0xFFFF00000000FF0000 = rowMatch pid ↔
    v.extractLsb' 64 8 = hdr0 ∧ v.extractLsb' 56 8 = hdr1 ∧ v.extractLsb' 16 8 = pid := by
  have mask : (0xFFFF00000000FF0000 : BitVec 72)
      = BitVec.allOnes 8 ++ BitVec.allOnes 8 ++ 0#32 ++ BitVec.allOnes 8 ++ 0#16 := by decide
  have masked : v &&& 0xFFFF00000000FF0000
      = v.extractLsb' 64 8 ++ v.extractLsb' 56 8 ++ 0#32 ++ v.extractLsb' 16 8 ++ 0#16 := by
    conv_lhs => rw [mask, head_fields v]
    rw [BitVec.and_append, BitVec.and_append, BitVec.and_append, BitVec.and_append]
    simp only [BitVec.and_allOnes, BitVec.and_zero]
  rw [masked, rowMatch, BitVec.append_left_inj, bitVec_append_eq_append_iff, BitVec.append_left_inj,
    bitVec_append_eq_append_iff, and_assoc]

theorem headOfNumber_of_rowMatch (v : BitVec 72) (pid : Byte) (h : v &&& 0xFFFF00000000FF0000 = rowMatch pid) :
    headOfNumber v = frameHead pid (v.extractLsb' 24 32) (v.extractLsb' 0 16) := by
  obtain ⟨h0, h1, hpid⟩ := (masked_head_eq_rowMatch_iff v pid).mp h
  rw [headOfNumber_eq, h0, h1, hpid]
  rfl

theorem rowMatch_of_headOfNumber (v : BitVec 72) (pid : Byte) (addr : Word) (len : Half)
    (h : headOfNumber v = frameHead pid addr len) : v &&& 0xFFFF00000000FF0000 = rowMatch pid :=
  (masked_head_eq_rowMatch_iff v pid).mpr
    ⟨congrArg (byteAt · 0) h, congrArg (byteAt · 1) h, congrArg (byteAt · 6) h⟩

/-- Settles O31: the mask keeps exactly the fields of the head that the decoder tests. -/
theorem frameRowsMatchMaskedHead : Obligations.FrameRowsMatchMaskedHead := by
  intro v k tail m hm long
  obtain rfl : m = rowMatch k.pid := by
    rcases hm with ⟨rfl, rfl⟩ | ⟨rfl, rfl⟩ | ⟨rfl, rfl⟩ | ⟨rfl, rfl⟩ <;> decide
  refine ⟨fun h => ?row, fun hne addr len body hok => hne ?other⟩
  case row =>
    have fits : bodyFits (v.extractLsb' 0 16) (tail.take (v.extractLsb' 0 16).toNat) = true := by
      rw [bodyFits, List.length_take, Nat.min_eq_left long, beq_self_eq_true]
    rw [headOfNumber_of_rowMatch v k.pid h]
    simpa only [List.append_assoc, List.take_append_drop] using
      decodeFrame_head k (v.extractLsb' 24 32) _ _ (tail.drop (v.extractLsb' 0 16).toNat) fits
  case other =>
    obtain ⟨k', addr', len', body', rest, hi, -, hbytes⟩ := decodeFrame_eq_ok _ _ hok
    obtain rfl := frameInstr_kind_injective k k' addr addr' len len' body body' hi
    rw [frameBytes, List.append_assoc] at hbytes
    exact rowMatch_of_headOfNumber v k.pid addr' len' (List.append_inj_left hbytes rfl)

end Sys2Proof
end

section
/-! The decoder's operations (42_decoder.md): bytes in, the host's `TAKE` and `FLUSH`, and the Result `PARSE` posts for
each kind of frame, in its general form and in the four frame forms. -/

namespace Sys2Proof.Machine

/-! ### Bytes in, and the host's side -/

/-- Settles O16: with room in `rx`, `RXB` is `pushRx`. -/
theorem rxbAppendsByte : Obligations.RxbAppendsByte :=
  fun s b room => execRxb_enabled b s ((rxReady_iff s).mpr room)

theorem execTake_pending (s : State) (r : Result) (h : s.res = some r) :
    execTake s = .next (answer (.result r) (releaseResult s)) := by
  simp only [execTake, h]

theorem execTake_none (s : State) (h : s.res = none) : execTake s = .next (refuse .noResult s) := by
  simp only [execTake, h]

/-- Settles O6: the two cases of `TAKE`. -/
theorem takeDeliversOnce : Obligations.TakeDeliversOnce :=
  ⟨execTake_pending, execTake_none⟩

/-- Settles O7: `FLUSH` has one case. -/
theorem flushEmptiesReceiveSide : Obligations.FlushEmptiesReceiveSide :=
  fun _ => rfl

/-! ### A frame for this device (R142, R143) -/

/-- Settles O18: the bytes are those of an encoded frame. -/
theorem parseAcceptsGoodFrame : Obligations.ParseAcceptsGoodFrame :=
  execParse_encodeFrame

/-! ### Posting a verdict: a frame that is not accepted stays in `rx` (R141, R142) -/

section
variable (s : State) (c : BitVec 3) (pid : Byte) (len : Half) (p : Bytes) (rc : Half)

theorem postResult_corrupted (h : c ≠ 0) : postResult (verdict c pid len p rc) s
    = { s with res := some { status := .corrupted, cause := c, pid := pid, len := len, payload := [] } } := by
  rw [verdict_corrupted c pid len p rc h, postResult_not_ok _ s (by simp)]

theorem postResult_checksum (h : rc ≠ csum16 pid len p) : postResult (verdict 0 pid len p rc) s
    = { s with res := some { status := .checksum, cause := 0, pid := pid, len := len, payload := [] } } := by
  rw [verdict_checksum pid len p rc h, postResult_not_ok _ s (by simp)]

theorem verdict_not_accepted (h : ¬(c = 0 ∧ rc = csum16 pid len p)) :
    (verdict c pid len p rc).status ≠ .ok ∧ (verdict c pid len p rc).payload = [] := by
  rcases verdict_cases c pid len p rc with ⟨-, e⟩ | ⟨-, -, e⟩ | ⟨hc, hrc, -⟩
  · simp [e]
  · simp [e]
  · exact absurd ⟨hc, hrc⟩ h

/-- R141, R192: once a cause holds, neither the payload nor the checksum is looked at. -/
theorem verdict_congr_of_cause (p' : Bytes) (rc' : Half) (h : c ≠ 0) :
    verdict c pid len p rc = verdict c pid len p' rc' := by
  rw [verdict_corrupted c pid len p rc h, verdict_corrupted c pid len p' rc' h]

end

/-- Settles O20: with no cause the verdict is the checksum's. -/
theorem parseRejectsChecksum : Obligations.ParseRejectsChecksum := by
  intro s a k p rest rc hcfg hres haddr hmask short floor hrx hne
  have bytes : s.rx = frameHead k.pid a (lenField p) ++ (p ++ (be16 rc ++ rest)) := by
    rw [hrx]
    simp only [frameHead, framePrefix, hdr0, hdr1, lenField, List.append_assoc]
  exact (execParse_frame s a k p rest rc hcfg hres haddr hmask short floor bytes).trans
    (congrArg _ (postResult_checksum s k.pid (lenField p) p rc hne))

/-! ### The causes (R141) -/

theorem accepts_iff (mask : BitVec 4) (b : Byte) : accepts mask b = true ↔
    (b = 0x01 ∧ mask.getLsbD 0 = true) ∨ (b = 0x02 ∧ mask.getLsbD 1 = true)
      ∨ (b = 0x07 ∧ mask.getLsbD 2 = true) ∨ (b = 0x08 ∧ mask.getLsbD 3 = true) := by
  constructor
  · intro h
    rcases accepts_pid_values mask b h with rfl | rfl | rfl | rfl
    · exact .inl ⟨rfl, h⟩
    · exact .inr (.inl ⟨rfl, h⟩)
    · exact .inr (.inr (.inl ⟨rfl, h⟩))
    · exact .inr (.inr (.inr ⟨rfl, h⟩))
  · rintro (⟨rfl, h⟩ | ⟨rfl, h⟩ | ⟨rfl, h⟩ | ⟨rfl, h⟩) <;> exact h

/-- R137 in numbers. -/
theorem prefixOk_iff (a : Word) (rx : Bytes) : prefixOk a rx = true ↔
    rx.take 6 = [0xEF, 0x01, BitVec.ofNat 8 (a.toNat / 2 ^ 24), BitVec.ofNat 8 (a.toNat / 2 ^ 16),
      BitVec.ofNat 8 (a.toNat / 2 ^ 8), BitVec.ofNat 8 a.toNat] := by
  rw [prefixOk, beq_iff_eq, framePrefix, be32_eq_ofNat]
  rfl

theorem lenBad_iff (cfg : Config) (len : Half) :
    lenBad cfg len = true ↔ len.toNat < 2 ∨ cfg.maxPay < len.toNat - 2 := by
  simp [lenBad]

/-- Settles O19: each cause bit is the negation of one test of R136 and R137, and any cause makes the Result
`CORRUPTED`. -/
theorem parseRejectsCorrupted : Obligations.ParseRejectsCorrupted := by
  intro s a pid len badPrefix badPid badLen hres hexp haddr floor hpid hlen hprefix hbadPid hbadLen hcomplete hbad
  have field : (lenAt s.rx).toNat = len := (u16_toNat _ _).trans hlen.symm
  have bit0 : (!prefixOk a s.rx) = true ↔ badPrefix := by
    rw [Bool.not_eq_true', Bool.eq_false_iff, ne_eq, prefixOk_iff, hprefix]
  have bit1 : (!accepts s.expect pid) = true ↔ badPid := by
    rw [Bool.not_eq_true', Bool.eq_false_iff, ne_eq, accepts_iff, hbadPid]
  have bit2 : lenBad s.cfg (lenAt s.rx) = true ↔ badLen := by rw [lenBad_iff, field, hbadLen]
  have enabled : s.parseEnabled = true := by
    refine (parseEnabled_iff s).mpr ⟨hres, hexp, by simp [haddr], floor, (frameComplete_iff _ _).mpr ?_⟩
    rwa [bit2, field]
  have cause : causeBits (!prefixOk a s.rx) (!accepts s.expect pid) (lenBad s.cfg (lenAt s.rx)) ≠ 0 := by
    rw [ne_eq, causeBits_eq_zero]
    rintro ⟨h0, h1, h2⟩
    simp only [h0, h1, h2, Bool.false_eq_true, false_iff] at bit0 bit1 bit2
    tauto
  refine ⟨causeBits (!prefixOk a s.rx) (!accepts s.expect pid) (lenBad s.cfg (lenAt s.rx)),
    by rw [causeBits_prefix, bit0], by rw [causeBits_pid, bit1], by rw [causeBits_len, bit2],
    (execParse_enabled s a haddr enabled).trans (congrArg _ ?_)⟩
  rw [examine, ← hpid, postResult_corrupted _ _ _ _ _ _ cause, ← field, BitVec.ofNat_toNat, BitVec.setWidth_eq]

/-! ### The frame forms (R152 to R155) -/

theorem framePrefix_injective (a b : Word) (h : framePrefix a = framePrefix b) : a = b := by
  have fields := congrArg addrAt h
  rwa [show addrAt (framePrefix a) = a from u32_be32 a, show addrAt (framePrefix b) = b from u32_be32 b] at fields

/-- R137 on a frame in hand: its first six bytes are the expected ones iff its address is. -/
theorem prefixOk_frameHead (a addr : Word) (pid : Byte) (len : Half) (bs : Bytes) :
    prefixOk a (frameHead pid addr len ++ bs) = (addr == a) := by
  rw [Bool.eq_iff_iff, beq_iff_eq]
  refine ⟨fun h => framePrefix_injective addr a (beq_iff_eq.mp h), fun h => ?_⟩
  rw [h, prefixOk_head]

/-- R138's body reads from the bytes of a frame exactly that frame's fields. With a sound length the payload and the
checksum are in the frame's body; with an unsound one they are not looked at. -/
theorem examine_frameBytes (cfg : Config) (a : Word) (expect : BitVec 4) (k : Kind) (addr : Word) (len : Half)
    (body rest : Bytes) (hb : body.length = len.toNat) :
    examine cfg a expect (frameBytes k addr len body ++ rest) = examineFrame cfg a expect k addr len body := by
  rw [frameBytes, List.append_assoc, examine, examineFrame]
  simp only [lenAt_head, byteAt_head_pid, prefixOk_frameHead, accepts_pid, bne]
  cases sound : lenBad cfg len with
  | true => exact verdict_congr_of_cause _ _ _ _ _ _ _ ((causeBits_eq_zero _ _ _).not.mpr (by simp))
  | false =>
    obtain ⟨two, -⟩ := (lenBad_eq_false cfg len).mp sound
    have hbody (i : Nat) (hi : i < body.length) :
        byteAt (frameHead k.pid addr len ++ (body ++ rest)) (headLen + i) = byteAt body i := by
      rw [← frameHead_length k.pid addr len, byteAt_append_right, byteAt_append_left _ _ _ hi]
    have hpayload : slice (frameHead k.pid addr len ++ (body ++ rest)) headLen (headLen + (len.toNat - 2))
        = body.take (len.toNat - 2) := by
      rw [slice, ← frameHead_length k.pid addr len, List.drop_left, Nat.add_sub_cancel_left,
        List.take_append_of_le_length (by omega)]
    rw [hpayload, Nat.add_assoc headLen 1, Nat.add_comm 1, hbody _ (by omega), hbody _ (by omega)]

/-- Settles O23: one condition enables both steps, and `examine_frameBytes` makes their Results one. -/
theorem frameFormIsParse : Obligations.FrameFormIsParse := by
  intro k addr len body rest s hfits hrx
  have hb : body.length = len.toNat := by simpa [bodyFits] using hfits
  rw [exec_frameInstr]
  change _ = execParse s
  cases hp : s.parseEnabled with
  | false => rw [frameStep_disabled k addr len body s hp, execParse_disabled s hp]
  | true =>
    obtain ⟨hres, hexp, haddr, floor, -⟩ := (parseEnabled_iff s).mp hp
    obtain ⟨a, ha⟩ := Option.ne_none_iff_exists'.mp haddr
    have hf : s.frameEnabled (frameBytes k addr len body) = true :=
      (frameEnabled_iff s _).mpr ⟨hres, hexp, haddr, floor, rest, hrx.symm⟩
    rw [frameStep_enabled k addr a len body s ha hf hb, execParse_enabled s a ha hp, hrx,
      examine_frameBytes _ a _ k addr len body rest hb]

/-- Settles O36: what `rx` decodes to is either the frame in front, whose form is `PARSE` by O23, or `PARSE` itself. -/
theorem validatorTurnIsParse : Obligations.ValidatorTurnIsParse := by
  intro s rest hrst hturn
  rw [step_of_fetch s _ hrst (fetch_val s rest hturn), advance_val s rest hturn]
  cases hframe : decodeFrame s.rx with
  | error why => simp only [decode, hframe]
  | ok i =>
    obtain ⟨k, addr, len, body, behind, rfl, hfits, hrx⟩ := decodeFrame_eq_ok s.rx i hframe
    simp only [decode, hframe]
    exact frameFormIsParse k addr len body behind _ hfits hrx

/-- R138 for a frame in hand with a sound length: the payload is what stands before the checksum. -/
theorem examineFrame_payload (cfg : Config) (a : Word) (expect : BitVec 4) (k : Kind) (addr : Word) (len rc : Half)
    (p : Bytes) (hlen : len.toNat = p.length + 2) (short : p.length ≤ cfg.maxPay) :
    examineFrame cfg a expect k addr len (p ++ be16 rc)
      = verdict (causeBits (addr != a) (!expect.getLsbD k.bit) false) k.pid len p rc := by
  have hn : len.toNat - 2 = p.length := Nat.sub_eq_of_eq_add hlen
  have sound : lenBad cfg len = false := (lenBad_eq_false cfg len).mpr (by omega)
  have hsum (i : Nat) : byteAt (p ++ be16 rc) (p.length + i) = byteAt (be16 rc) i := byteAt_append_right p _ i
  have hrc : u16 (byteAt (p ++ be16 rc) p.length) (byteAt (p ++ be16 rc) (p.length + 1)) = rc := by
    rw [hsum 1, ← Nat.add_zero p.length, hsum 0]
    exact u16_be16 rc
  simp only [examineFrame, hn, sound, hrc, List.take_left]

/-- Settles O22: the frame form posts `examineFrame`'s verdict on the three tests; when all three pass, it is O18's
`PARSE`. -/
theorem frameFormsJudgeReceivedFrame : Obligations.FrameFormsJudgeReceivedFrame := by
  intro i pid bit s a addr p rest len rc hcfg hres hexp haddr short floor hlen hrx hi
  obtain ⟨k, rfl, rfl, rfl⟩ : ∃ k : Kind,
      i = frameInstr k addr len (p ++ be16 rc) ∧ pid = k.pid ∧ bit = k.bit := by
    rcases hi with ⟨rfl, rfl, rfl⟩ | ⟨rfl, rfl, rfl⟩ | ⟨rfl, rfl, rfl⟩ | ⟨rfl, rfl, rfl⟩
    exacts [⟨.cmd, rfl, rfl, rfl⟩, ⟨.dat, rfl, rfl, rfl⟩, ⟨.ack, rfl, rfl, rfl⟩, ⟨.fin, rfl, rfl, rfl⟩]
  obtain ⟨hmax, -⟩ := (config_ok_iff s.cfg).mp hcfg
  have field : len.toNat = p.length + 2 := hlen ▸ lenField_toNat p (short.trans hmax)
  have hbody : (p ++ be16 rc).length = len.toNat := by rw [List.length_append, be16_length, field]
  have front : s.rx = frameBytes k addr len (p ++ be16 rc) ++ rest := by
    rw [hrx]
    simp only [frameBytes, frameHead, framePrefix, hdr0, hdr1, List.append_assoc]
  have enabled : s.frameEnabled (frameBytes k addr len (p ++ be16 rc)) = true :=
    (frameEnabled_iff s _).mpr ⟨hres, hexp, by simp [haddr], floor, rest, front.symm⟩
  have judged : exec (frameInstr k addr len (p ++ be16 rc)) s
      = .next (postResult (verdict (causeBits (addr != a) (!s.expect.getLsbD k.bit) false) k.pid len p rc) s) := by
    rw [exec_frameInstr, frameStep_enabled k addr a len _ s haddr enabled hbody,
      examineFrame_payload _ a _ k addr len rc p field short]
  refine ⟨fun ⟨hmask, heq, hsum⟩ => ?accepted, fun hmask => ?masked, fun hnot => ?rejected⟩
  case accepted =>
    subst heq hsum hlen
    rw [frameFormIsParse k addr _ _ rest s (by simpa [bodyFits] using hbody) front]
    exact parseAcceptsGoodFrame s addr k p rest hcfg hres haddr hmask short floor hrx
  case masked =>
    have cause : causeBits (addr != a) true false = if addr = a then 0b010 else 0b011 := by
      by_cases h : addr = a
      · rw [if_pos h, bne_eq_false_iff_eq.mpr h]; rfl
      · rw [if_neg h, bne_iff_ne.mpr h]; rfl
    rw [judged, hmask, Bool.not_false, postResult_corrupted _ _ _ _ _ _ ((causeBits_eq_zero _ _ _).not.mpr (by simp)),
      cause]
  case rejected =>
    have fails : ¬(causeBits (addr != a) (!s.expect.getLsbD k.bit) false = 0 ∧ rc = csum16 k.pid len p) := by
      rintro ⟨hcause, hsum⟩
      obtain ⟨haddr', hmask, -⟩ := (causeBits_eq_zero _ _ _).mp hcause
      exact hnot ⟨by simpa using hmask, by simpa using haddr', hsum⟩
    obtain ⟨hstatus, hpayload⟩ := verdict_not_accepted _ _ _ _ _ fails
    exact ⟨_, judged.trans (congrArg _ (postResult_not_ok _ s hstatus)), hstatus, hpayload⟩

end Sys2Proof.Machine
end

section
/-! What a `PARSE` step depends on (R145), and so what it does again after `TAKE`: the same error, or the frame behind
(R146, R149). -/

namespace Sys2Proof.Machine

/-! ### The five inputs -/

/-- When `PARSE` leaves a Result where there was none, it was enabled and has posted that of R138's body. -/
theorem execParse_posted (s u : State) (r : Result) (hres : s.res = none) (h : execParse s = .next u)
    (hr : u.res = some r) :
    ∃ a, s.addr = some a ∧ s.parseEnabled = true ∧ r = examine s.cfg a s.expect s.rx ∧ u = postResult r s := by
  rcases execParse_cases s with ⟨-, e⟩ | ⟨a, ha, hp, e⟩ <;> cases e.symm.trans h
  · rw [hres] at hr
    cases hr
  · cases hr
    exact ⟨a, ha, hp, rfl, rfl⟩

section
variable (s t : State) (hrx : s.rx = t.rx) (haddr : s.addr = t.addr) (hexp : s.expect = t.expect)
  (hres : s.res = t.res) (hmax : s.cfg.maxPay = t.cfg.maxPay)
include hrx hexp hmax

/-- Of the parameters only `MAXPAY` is read. -/
theorem examine_congr (a : Word) : examine s.cfg a s.expect s.rx = examine t.cfg a t.expect t.rx := by
  simp only [examine, lenBad, hrx, hexp, hmax]

include haddr hres

theorem parseEnabled_congr : s.parseEnabled = t.parseEnabled := by
  simp only [State.parseEnabled, frameComplete, lenBad, hrx, haddr, hexp, hres, hmax]

/-- R145, first half. -/
theorem execParse_congr : ∃ (r : Option Result) (x : Bytes), execParse s = .next { s with res := r, rx := x }
    ∧ execParse t = .next { t with res := r, rx := x } := by
  have same := parseEnabled_congr s t hrx haddr hexp hres hmax
  rcases execParse_cases s with ⟨hp, e⟩ | ⟨a, ha, hp, e⟩
  · refine ⟨s.res, s.rx, e, ?_⟩
    rw [execParse_disabled t (same ▸ hp), hres, hrx]
  · refine ⟨_, _, e, ?_⟩
    rw [execParse_enabled t a (haddr ▸ ha) (same ▸ hp), examine_congr s t hrx hexp hmax a, hrx]
    rfl

end

/-! ### Bytes behind the frame -/

theorem lenAt_append (rx x : Bytes) (long : headLen ≤ rx.length) : lenAt (rx ++ x) = lenAt rx := by
  rw [headLen] at long
  rw [lenAt, lenAt, byteAt_append_left rx x 7 (by omega), byteAt_append_left rx x 8 (by omega)]

theorem slice_append (s t : Bytes) (i j : Nat) (h : j ≤ s.length) : slice (s ++ t) i j = slice s i j := by
  by_cases hij : i ≤ j
  · rw [slice, slice, List.drop_append_of_le_length (hij.trans h), List.take_append_of_le_length]
    rw [List.length_drop]
    omega
  · simp [slice, Nat.sub_eq_zero_of_le (Nat.le_of_not_le hij)]

theorem frameComplete_append (cfg : Config) (rx x : Bytes) (long : headLen ≤ rx.length)
    (complete : frameComplete cfg rx = true) : frameComplete cfg (rx ++ x) = true := by
  rw [frameComplete_iff] at complete ⊢
  rw [lenAt_append rx x long, List.length_append]
  exact complete.imp_right fun whole => whole.trans (Nat.le_add_right _ _)

/-- R138's body looks at the head alone when a cause holds, and else at no byte behind the frame. -/
theorem examine_append (cfg : Config) (a : Word) (expect : BitVec 4) (rx x : Bytes) (long : headLen ≤ rx.length)
    (complete : frameComplete cfg rx = true) : examine cfg a expect (rx ++ x) = examine cfg a expect rx := by
  have six : 6 ≤ rx.length := (by decide : 6 ≤ headLen).trans long
  have hprefix : prefixOk a (rx ++ x) = prefixOk a rx := by rw [prefixOk, prefixOk, slice_append rx x 0 6 six]
  have hpid : byteAt (rx ++ x) 6 = byteAt rx 6 := byteAt_append_left rx x 6 ((by decide : 6 < headLen).trans_le long)
  simp only [examine, lenAt_append rx x long, hprefix, hpid]
  cases sound : lenBad cfg (lenAt rx) with
  | true => exact verdict_congr_of_cause _ _ _ _ _ _ _ ((causeBits_eq_zero _ _ _).not.mpr (by simp))
  | false =>
    obtain ⟨two, -⟩ := (lenBad_eq_false cfg _).mp sound
    have whole : (lenAt rx).toNat + 9 ≤ rx.length :=
      ((frameComplete_iff _ _).mp complete).resolve_left (by simp [sound])
    rw [headLen, slice_append rx x _ _ (by omega), byteAt_append_left rx x _ (by omega),
      byteAt_append_left rx x _ (by omega)]

/-- The bytes an enabled `PARSE` drops are all there: an `OK` frame has a sound length, so it is whole. -/
theorem consumed_examine_le (s : State) (a : Word) (h : s.parseEnabled = true) :
    consumed (examine s.cfg a s.expect s.rx) ≤ s.rx.length := by
  obtain ⟨-, -, -, -, complete⟩ := (parseEnabled_iff s).mp h
  by_cases hok : (examine s.cfg a s.expect s.rx).status = .ok
  · have hlen : (examine s.cfg a s.expect s.rx).len = lenAt s.rx := verdict_len _ _ _ _ _
    have sound := examine_resultOk s a h
    simp only [resultOk, hok, hlen] at sound
    obtain ⟨-, two, hpayload, -, short⟩ := sound
    have lengthSound : lenBad s.cfg (lenAt s.rx) = false := (lenBad_eq_false _ _).mpr ⟨two, hpayload ▸ short⟩
    rw [consumed_ok _ hok, hlen]
    exact ((frameComplete_iff _ _).mp complete).resolve_left (by simp [lengthSound])
  · rw [consumed_not_ok _ hok]
    exact Nat.zero_le _

/-- Settles O24: the five inputs are all that the enabling test and the body read, and neither reads behind the
frame. -/
theorem parseDependsOnFrameOnly : Obligations.ParseDependsOnFrameOnly := by
  refine ⟨execParse_congr, fun s u x hres h hu => ?_⟩
  obtain ⟨r, hr⟩ := Option.ne_none_iff_exists'.mp hu
  obtain ⟨a, ha, hp, rfl, rfl⟩ := execParse_posted s u r hres h hr
  obtain ⟨-, hexp, haddr, floor, complete⟩ := (parseEnabled_iff s).mp hp
  have long : headLen ≤ s.rx.length := (by decide : headLen ≤ 12).trans floor
  have enabled : ({ s with rx := s.rx ++ x } : State).parseEnabled = true := by
    refine (parseEnabled_iff _).mpr ⟨hres, hexp, haddr, ?_, frameComplete_append _ _ _ long complete⟩
    exact floor.trans (by simp)
  refine (execParse_enabled { s with rx := s.rx ++ x } a ha enabled).trans (congrArg _ ?_)
  rw [examine_append _ _ _ _ _ long complete, postResult, postResult_rx,
    List.drop_append_of_le_length (consumed_examine_le s a hp)]
  rfl

/-! ### Runs of `PARSE` and `TAKE` -/

theorem execParse_short (s : State) (h : s.rx.length < 12) : execParse s = .next s :=
  execParse_disabled s ((parseEnabled_eq_false s).mpr (.inr (.inr (.inr (.inl h)))))

/-- Settles O26: an encoded frame has 11 bytes and its payload's. -/
theorem twelveByteFloor : Obligations.TwelveByteFloor := by
  refine ⟨execParse_short, fun s a k p hcfg hres haddr hmask short hrx => ⟨fun hne => ?payload, ?empty⟩⟩
  case payload =>
    have floor : 12 ≤ s.rx.length := by
      have := List.length_pos_of_ne_nil hne
      rw [hrx, encodeFrame_length]
      omega
    exact execParse_encodeFrame s a k p [] hcfg hres haddr hmask short floor (by rw [hrx, List.append_nil])
  case empty =>
    rintro rfl
    refine ⟨execParse_short s (by simp [hrx]), fun b => ?_⟩
    exact execParse_encodeFrame { s with rx := s.rx ++ [b] } a k [] [b] hcfg hres haddr hmask short (by simp [hrx])
      (by simp only [hrx])

/-- `TAKE` of a Result just written gives the host that Result and the state as it was before. -/
theorem execTake_written (s : State) (r : Result) (hres : s.res = none) :
    exec .take { s with res := some r } = .next (answer (.result r) s) := by
  have released : releaseResult { s with res := some r } = s := by rw [releaseResult, ← hres]
  exact (execTake_pending _ r rfl).trans (by rw [released])

/-- Settles O27: the error Result has dropped no byte, and `TAKE` restores all that `PARSE` depends on. -/
theorem takeAloneRepeatsTheError : Obligations.TakeAloneRepeatsTheError := by
  intro s u r hres h hr hstatus
  obtain ⟨a, ha, hp, hexamine, rfl⟩ := execParse_posted s u r hres h hr
  have again : exec .parse (answer (.result r) s) = .next (postResult r (answer (.result r) s)) := by
    rw [hexamine]
    exact execParse_enabled (answer _ s) a ha hp
  rw [postResult_not_ok r s hstatus, runOps_cons_next _ _ _ _ (execTake_written s r hres),
    runOps_cons_next _ _ _ _ again, postResult_not_ok r _ hstatus]
  rfl

/-- Settles O28: each frame in turn is at the front of `rx` with no Result pending. -/
theorem coalescedFrameIsNotStranded : Obligations.CoalescedFrameIsNotStranded := by
  intro s a k k' p p' rest hcfg hres haddr hmask hmask' short short' hempty hrx
  rw [List.append_assoc] at hrx
  have floor' : 12 ≤ (encodeFrame k'.pid a p' ++ rest).length := by
    have nonempty : p'.length ≠ 0 ∨ rest.length ≠ 0 := by
      simpa only [ne_eq, List.length_eq_zero_iff, or_iff_not_imp_left, not_not] using hempty
    rw [List.length_append, encodeFrame_length]
    omega
  have floor : 12 ≤ s.rx.length := by
    rw [hrx, List.length_append]
    exact floor'.trans (Nat.le_add_left _ _)
  have first := execParse_encodeFrame s a k p (encodeFrame k'.pid a p' ++ rest) hcfg hres haddr hmask short floor hrx
  have taken := execTake_written { s with rx := encodeFrame k'.pid a p' ++ rest }
    { status := .ok, cause := 0, pid := k.pid, len := lenField p, payload := p } hres
  have second := execParse_encodeFrame (answer (.result
    { status := .ok, cause := 0, pid := k.pid, len := lenField p, payload := p })
    { s with rx := encodeFrame k'.pid a p' ++ rest }) a k' p' rest hcfg hres haddr hmask' short' floor' rfl
  rw [runOps_cons_next .parse _ _ _ first, runOps_cons_next .take _ _ _ taken, runOps_cons_next .parse _ _ _ second]
  rfl

end Sys2Proof.Machine
end

section
/-! Configuration, status and reset (43_config.md): what the host reads and writes, the two ways the state elements take
their reset values, and the reserved operation numbers. -/

namespace Sys2Proof.Machine

/-! ### The registers and `STATUS` -/

theorem execRdaddr_written (s : State) (a : Word) (h : s.addr = some a) :
    execRdaddr s = .next (answer (.addr a) s) := by
  simp only [execRdaddr, h]

theorem execRdaddr_unwritten (s : State) (h : s.addr = none) : execRdaddr s = .next (refuse .unconfigured s) := by
  simp only [execRdaddr, h]

/-- Settles O3: the two cases of `ADDR`. -/
theorem rdaddrRepliesOrRefuses : Obligations.RdaddrRepliesOrRefuses :=
  ⟨execRdaddr_written, execRdaddr_unwritten⟩

theorem statusView_rvalid_iff (s : State) : s.statusView.rvalid = true ↔ s.res ≠ none :=
  Option.isSome_iff_ne_none

theorem statusView_cfgd_iff (s : State) : s.statusView.cfgd = true ↔ s.addr ≠ none :=
  Option.isSome_iff_ne_none

/-- Settles O4: the record replied is `STATUS` as the state gives it. -/
theorem rdexpAndRdstatReply : Obligations.RdexpAndRdstatReply :=
  fun s => ⟨rfl, s.statusView, rfl, statusView_rvalid_iff s, statusView_cfgd_iff s, rfl, rfl⟩

/-- Settles O5: one register update and the reply `done`, with no test before them. -/
theorem wraddrAndWrexpWrite : Obligations.WraddrAndWrexpWrite :=
  fun s => ⟨fun a => ⟨rfl, (statusView_cfgd_iff { s with addr := some a, reply := some .done }).mpr nofun⟩,
    fun _ => rfl⟩

/-! ### Reset (R170, R205) -/

/-- R193 d: a request on `rst` is served whatever turn is next. -/
theorem step_of_rst (s : State) (h : s.rst = true) : step s = .next (serveRst s) :=
  if_pos h

/-- The signals of R205. `rx_ready` needs R9: a capacity below one byte would never be ready. -/
theorem signals_of_cleared (t : State) (hcfg : t.cfg.ok = true) (hrx : t.rx = []) (htxq : t.txq = [])
    (hres : t.res = none) : t.irqRes = false ∧ t.txValid = false ∧ t.rxReady = true := by
  obtain ⟨-, floor, -, -⟩ := (config_ok_iff t.cfg).mp hcfg
  refine ⟨?irq, ?tx, ?rx⟩
  case irq => rw [State.irqRes, State.statusView, hres]; rfl
  case tx => rw [State.txValid, htxq]; rfl
  case rx => rw [State.rxReady, hrx]; exact holds_mono _ _ _ (by decide) floor

/-- Settles O2: the operation and the port clear the same elements, and the signals follow from those. -/
theorem resetRestoresEveryElement : Obligations.ResetRestoresEveryElement := by
  refine ⟨fun _ => rfl, step_of_rst, fun s t hcfg h => ?_⟩
  rcases h with hexec | ⟨hrst, hstep⟩
  · cases hexec
    exact signals_of_cleared (answer .done (resetElements s)) hcfg rfl rfl rfl
  · cases (step_of_rst s hrst).symm.trans hstep
    exact signals_of_cleared (serveRst s) hcfg rfl rfl rfl

/-! ### The reserved numbers (R171) -/

/-- The lanes play no part: the number alone selects the reserved operation. -/
theorem decode_op_reserved (q : HostReq) (h : q.op = 0xC ∨ q.op = 0xD ∨ q.op = 0xE) :
    decode (.op q) = .reservedC ∨ decode (.op q) = .reservedD ∨ decode (.op q) = .reservedE := by
  refine h.imp (fun hC => ?_) (Or.imp (fun hD => ?_) fun hE => ?_)
  · simp [decode, decodeOp, hC]
  · simp [decode, decodeOp, hD]
  · simp [decode, decodeOp, hE]

/-- Settles O8: a reserved number decodes to one of the three reserved operations, and each only refuses. -/
theorem reservedNumbersAreBadOp : Obligations.ReservedNumbersAreBadOp := by
  refine ⟨fun _ => ⟨rfl, rfl, rfl⟩, fun q s h => ?_⟩
  rcases decode_op_reserved q h with hC | hD | hE
  · rw [hC]; rfl
  · rw [hD]; rfl
  · rw [hE]; rfl

end Sys2Proof.Machine
end

section
/-! Exceptions (60_exceptions.md): nothing stops the machine (R181, R186), a `CORRUPTED` verdict looks at the head alone
(R192), a refusal only answers (R186), and a request on `rst` outranks every turn still to come (R193). -/

namespace Sys2Proof.Machine

/-! ### Every operation and every step answers a next state -/

theorem exec_answers (i : Instr) (s : State) : ∃ t, exec i s = .next t := by
  cases i with
  | rdaddr =>
    cases ha : s.addr with
    | none => exact ⟨_, execRdaddr_unwritten s ha⟩
    | some a => exact ⟨_, execRdaddr_written s a ha⟩
  | csum k p =>
    rcases Nat.lt_or_ge s.cfg.maxPay p.length with long | short
    · exact ⟨_, execCsum_too_long k p s long⟩
    · exact ⟨_, execCsum_fits k p s short⟩
  | take =>
    cases hres : s.res with
    | none => exact ⟨_, execTake_none s hres⟩
    | some r => exact ⟨_, execTake_pending s r hres⟩
  | rxb b => rcases execRxb_cases b s with ⟨-, e⟩ | ⟨-, e⟩ <;> exact ⟨_, e⟩
  | parse => rcases execParse_cases s with ⟨-, e⟩ | ⟨a, -, -, e⟩ <;> exact ⟨_, e⟩
  | frameCmd | frameDat | frameAck | frameEnd => exact ⟨_, rfl⟩
  | encCmd | encDat | encAck | encEnd => exact ⟨_, rfl⟩
  | rdstat | wraddr | rdexp | wrexp | flush | reset | txb => exact ⟨_, rfl⟩
  | reservedC | reservedD | reservedE => exact ⟨_, rfl⟩

theorem step_answers (s : State) : ∃ t, step s = .next t := by
  cases hr : s.rst with
  | true => exact ⟨_, step_of_rst s hr⟩
  | false =>
    cases hf : fetch s with
    | none => exact ⟨_, step_of_fetch_none s hr hf⟩
    | some pw =>
      obtain ⟨t, ht⟩ := exec_answers (decode pw) (advance s)
      exact ⟨t, (step_of_fetch s pw hr hf).trans ht⟩

/-- Settles O43: the operations one by one, and a step is one of them, a turn spent or a reset served. -/
theorem nothingStopsTheMachine : Obligations.NothingStopsTheMachine :=
  ⟨exec_answers, step_answers⟩

/-! ### The host's refusals (R186) -/

theorem holds_eq_false_iff (c : Cap) (n : Nat) : c.holds n = false ↔ ∃ m, c = .bytes m ∧ m < n := by
  cases c <;> simp [Cap.holds]

/-- The table of R186: for each reason the numbers that may give it and the condition, with no lower code holding. -/
def refusalRow (q : HostReq) (s : State) : Reason → Prop
  | .unconfigured => s.addr = none ∧ (q.op = 0x1 ∨ q.op = 0x8 ∨ q.op = 0x9 ∨ q.op = 0xA ∨ q.op = 0xB)
  | .payloadTooLong => s.cfg.maxPay < q.p.length
      ∧ (q.op = 0x5 ∨ (s.addr ≠ none ∧ (q.op = 0x8 ∨ q.op = 0x9 ∨ q.op = 0xA ∨ q.op = 0xB)))
  | .txFull => s.addr ≠ none ∧ q.p.length ≤ s.cfg.maxPay
      ∧ (∃ n : Nat, s.cfg.txCap = .bytes n ∧ n < s.txq.length + 11 + q.p.length)
      ∧ (q.op = 0x8 ∨ q.op = 0x9 ∨ q.op = 0xA ∨ q.op = 0xB)
  | .noResult => s.res = none ∧ q.op = 0x6
  | .badOp => q.op = 0xC ∨ q.op = 0xD ∨ q.op = 0xE

section
variable (q : HostReq) (s t : State) (why : Reason) (hr : t.reply = some (.refused why))
include hr

theorem execRdaddr_refused (hop : q.op = 0x1) (h : execRdaddr s = .next t) :
    t = refuse why s ∧ refusalRow q s why := by
  cases ha : s.addr with
  | none =>
    cases (execRdaddr_unwritten s ha).symm.trans h
    cases hr
    exact ⟨rfl, ha, .inl hop⟩
  | some a =>
    cases (execRdaddr_written s a ha).symm.trans h
    cases hr

theorem execCsum_refused (k : Kind) (hop : q.op = 0x5) (h : execCsum k q.p s = .next t) :
    t = refuse why s ∧ refusalRow q s why := by
  rcases Nat.lt_or_ge s.cfg.maxPay q.p.length with long | short
  · cases (execCsum_too_long k q.p s long).symm.trans h
    cases hr
    exact ⟨rfl, long, .inl hop⟩
  · cases (execCsum_fits k q.p s short).symm.trans h
    cases hr

theorem execTake_refused (hop : q.op = 0x6) (h : execTake s = .next t) : t = refuse why s ∧ refusalRow q s why := by
  cases hres : s.res with
  | none =>
    cases (execTake_none s hres).symm.trans h
    cases hr
    exact ⟨rfl, hres, hop⟩
  | some r =>
    cases (execTake_pending s r hres).symm.trans h
    cases hr

/-- The three tests of R115, whose order is that of the codes. -/
theorem exec_encInstr_refused (k : Kind) (hop : q.op = 0x8 ∨ q.op = 0x9 ∨ q.op = 0xA ∨ q.op = 0xB)
    (h : exec (encInstr k q.p) s = .next t) : t = refuse why s ∧ refusalRow q s why := by
  obtain rfl : encodeInto k q.p s = t := Host.Outcome.next.inj ((exec_encInstr k q.p s).symm.trans h)
  rcases encodeInto_cases k q.p s with ⟨ha, e⟩ | ⟨a, ha, ⟨long, e⟩ | ⟨short, full, e⟩ | ⟨-, -, e⟩⟩ <;>
    rw [e] at hr ⊢ <;> cases hr
  · exact ⟨rfl, ha, .inr hop⟩
  · exact ⟨rfl, long, .inr ⟨by simp [ha], hop⟩⟩
  · exact ⟨rfl, by simp [ha], short, (holds_eq_false_iff _ _).mp full, hop⟩

/-- Case `n + 1` is operation number `n`. The numbers not named reply and refuse nothing. -/
theorem exec_decodeOp_refused (h : exec (decodeOp q) s = .next t) : t = refuse why s ∧ refusalRow q s why := by
  revert h
  fun_cases decodeOp q with
  | case2 hop => exact execRdaddr_refused q s t why hr (BitVec.eq_of_toNat_eq hop)
  | case6 hop => exact execCsum_refused q s t why hr (Kind.ofCode q.k) (BitVec.eq_of_toNat_eq hop)
  | case7 hop => exact execTake_refused q s t why hr (BitVec.eq_of_toNat_eq hop)
  | case9 hop => exact exec_encInstr_refused q s t why hr .cmd (.inl (BitVec.eq_of_toNat_eq hop))
  | case10 hop => exact exec_encInstr_refused q s t why hr .dat (.inr (.inl (BitVec.eq_of_toNat_eq hop)))
  | case11 hop => exact exec_encInstr_refused q s t why hr .ack (.inr (.inr (.inl (BitVec.eq_of_toNat_eq hop))))
  | case12 hop => exact exec_encInstr_refused q s t why hr .fin (.inr (.inr (.inr (BitVec.eq_of_toNat_eq hop))))
  | case13 hop => rintro ⟨⟩; cases hr; exact ⟨rfl, .inl (BitVec.eq_of_toNat_eq hop)⟩
  | case14 hop => rintro ⟨⟩; cases hr; exact ⟨rfl, .inr (.inl (BitVec.eq_of_toNat_eq hop))⟩
  | case15 hop => rintro ⟨⟩; cases hr; exact ⟨rfl, .inr (.inr (BitVec.eq_of_toNat_eq hop))⟩
  | case1 | case3 | case4 | case5 | case8 | case16 => rintro ⟨⟩; cases hr

end

/-- Settles O42: the row of the reason given holds, and the other reasons' clauses are about another reason. -/
theorem refusalChangesNoState : Obligations.RefusalChangesNoState := by
  refine ⟨rfl, rfl, rfl, rfl, rfl, fun q s t why h hr => ?_⟩
  obtain ⟨rfl, row⟩ := exec_decodeOp_refused q s t why hr h
  refine ⟨rfl, rfl, ?_, ?_, ?_, ?_, ?_⟩ <;> rintro rfl <;> exact row

/-! ### A `CORRUPTED` verdict looks at the head alone (R192) -/

theorem byteAt_eq_of_take_eq (x y : Bytes) (n i : Nat) (h : x.take n = y.take n) (hi : i < n) :
    byteAt x i = byteAt y i := by
  rw [byteAt, byteAt, List.getD_eq_getElem?_getD, List.getD_eq_getElem?_getD, ← List.getElem?_take_of_lt hi, h,
    List.getElem?_take_of_lt hi]

theorem causes_of_status_corrupted (c : BitVec 3) (pid : Byte) (len : Half) (p : Bytes) (rc : Half)
    (h : (verdict c pid len p rc).status = .corrupted) : c ≠ 0 := by
  rcases verdict_cases c pid len p rc with ⟨hc, -⟩ | ⟨-, -, e⟩ | ⟨-, -, e⟩
  · exact hc
  · rw [e] at h; cases h
  · rw [e] at h; cases h

section
variable (x y : Bytes) (head : x.take 9 = y.take 9)
include head

theorem lenAt_of_same_head : lenAt x = lenAt y := by
  rw [lenAt, lenAt, byteAt_eq_of_take_eq x y 9 7 head (by decide), byteAt_eq_of_take_eq x y 9 8 head (by decide)]

theorem prefixOk_of_same_head (a : Word) : prefixOk a x = prefixOk a y := by
  have six : x.take 6 = y.take 6 := by simpa [List.take_take] using congrArg (List.take 6) head
  simp only [prefixOk, slice, List.drop_zero, six]

/-- The enabling test reads `rx` for its length and for the length field, which stands in the head. -/
theorem parseEnabled_of_same_head (s : State) (hlen : x.length = y.length) :
    ({ s with rx := x } : State).parseEnabled = ({ s with rx := y } : State).parseEnabled := by
  simp only [State.parseEnabled, frameComplete, lenAt_of_same_head x y head, hlen]

/-- The causes are read off the head, and with a cause the rest is not read. -/
theorem examine_of_same_head (cfg : Config) (a : Word) (expect : BitVec 4)
    (h : (examine cfg a expect y).status = .corrupted) : examine cfg a expect x = examine cfg a expect y := by
  have cause := causes_of_status_corrupted _ _ _ _ _ h
  simp only [examine, lenAt_of_same_head x y head, prefixOk_of_same_head x y head a,
    byteAt_eq_of_take_eq x y 9 6 head (by decide)]
  exact verdict_congr_of_cause _ _ _ _ _ _ _ cause

end

/-- Settles O25: on the same head as many bytes enable `PARSE` alike and give it the same causes. -/
theorem corruptedOutranksChecksum : Obligations.CorruptedOutranksChecksum := by
  intro s u r x hres h hr hstatus hlen head
  obtain ⟨a, ha, hp, rfl, -⟩ := execParse_posted s u r hres h hr
  have enabled : ({ s with rx := x } : State).parseEnabled = true :=
    (parseEnabled_of_same_head x s.rx head s hlen).trans hp
  refine (execParse_enabled { s with rx := x } a ha enabled).trans (congrArg _ ?_)
  rw [examine_of_same_head x s.rx head _ a _ hstatus, postResult_not_ok _ _ (by simp [hstatus])]

/-! ### A request on `rst` outranks every turn still to come (R193 d) -/

theorem run_succ_of_step (M : Host.Core) (n : Nat) (s u : M.State) (h : M.step s = .next u) :
    M.run (n + 1) s = M.run n u := by
  rw [Host.Core.run, h]

/-- Two runs of any machine, one after the other. -/
theorem run_add_next (M : Host.Core) (m n : Nat) (s t : M.State) (h : M.run m s = .next t) :
    M.run (m + n) s = M.run n t := by
  induction m generalizing s with
  | zero => cases h; rw [Nat.zero_add]
  | succ m ih =>
    obtain ⟨u, hu, hrest⟩ := run_succ_next M m s t h
    rw [Nat.add_right_comm, run_succ_of_step M (m + n) s u hu]
    exact ih u hrest

/-- An agent's step spends its turn and raises no request. -/
theorem step_agent_turn (s : State) (turn : Turn) (later : List Turn) (hr : s.rst = false)
    (hsched : s.sched = turn :: later) (agent : turn ≠ .rst) :
    ∃ t, step s = .next t ∧ t.rst = false ∧ t.sched = later := by
  have spent : (advance s).rst = false ∧ (advance s).sched = later := by simp [hr, hsched, agent]
  obtain ⟨t, ht⟩ := step_answers s
  refine ⟨t, ht, ?_⟩
  rcases step_cases s t ht with ⟨up, -⟩ | ⟨-, -, rfl⟩ | ⟨pw, -, -, he⟩
  · rw [hr] at up; cases up
  · exact spent
  · obtain ⟨sched, rst, -⟩ := exec_environment _ _ _ he
    rwa [sched, rst]

theorem run_agents_turns (before later : List Turn) (s : State) (hr : s.rst = false)
    (hsched : s.sched = before ++ later) (agents : Turn.rst ∉ before) :
    ∃ t : State, Host.Core.run Sys2Proof.core before.length s = .next t ∧ t.rst = false ∧ t.sched = later := by
  induction before generalizing s with
  | nil => exact ⟨s, rfl, hr, hsched⟩
  | cons turn before ih =>
    have agent : turn ≠ .rst := (List.ne_of_not_mem_cons agents).symm
    obtain ⟨u, hu, hur, husched⟩ := step_agent_turn s turn (before ++ later) hr hsched agent
    obtain ⟨t, ht, hend⟩ := ih u hur husched (List.not_mem_of_not_mem_cons agents)
    exact ⟨t, (run_succ_of_step Sys2Proof.core before.length s u hu).trans ht, hend⟩

/-- The turn that raises a request, then the step that serves it. -/
theorem run_raised_request (t : State) (after : List Turn) (hr : t.rst = false) (hsched : t.sched = .rst :: after) :
    Host.Core.run Sys2Proof.core 2 t = .next (serveRst { t with sched := after, rst := true }) := by
  have raised : step t = .next { t with sched := after, rst := true } := by
    rw [step_of_fetch_none t hr (fetch_raise t after hsched), advance_raise t after hsched]
  have served := step_of_rst { t with sched := after, rst := true } rfl
  exact (run_succ_of_step Sys2Proof.core 1 t _ raised).trans (run_succ_of_step Sys2Proof.core 0 _ _ served)

/-- Settles O49: the agents' turns are spent one by one, and the request raised next is served before another. -/
theorem requestOnRstMayRiseAnywhere : Obligations.RequestOnRstMayRiseAnywhere := by
  intro before after s hr hsched agents
  obtain ⟨t, ht, htr, htsched⟩ := run_agents_turns before (.rst :: after) s hr hsched agents
  refine ⟨t, ht, htr, htsched, ?_⟩
  rw [run_add_next Sys2Proof.core before.length 2 s t ht, run_raised_request t after htr htsched]
  rfl

end Sys2Proof.Machine
end

section
/-! Words of the spec (95_test_vectors.md): frames written out byte by byte, read back by their fields, and a head whose
packet id is no row of the opcode table (R74, R78), whatever its other fields and the bytes behind. -/

namespace Sys2Proof

theorem decodeFrame_unknown_pid (pid : Byte) (a : Word) (len : Half) (rest : Bytes) (unknown : Kind.ofPid pid = none) :
    decodeFrame (frameHead pid a len ++ rest) = .error (.badPid pid) := by
  have h0 : byteAt (frameHead pid a len ++ rest) 0 = hdr0 := rfl
  have h1 : byteAt (frameHead pid a len ++ rest) 1 = hdr1 := rfl
  have long : ¬(frameHead pid a len ++ rest).length < headLen := by simp
  rw [decodeFrame, if_neg long, if_neg (by simp [h0, h1])]
  simp only [byteAt_head_pid, unknown]

/-- R85, R138: bytes that are no frame row are `PARSE`'s to examine. -/
theorem decode_frame_of_error (bs : Bytes) (why : Reject) (h : decodeFrame bs = .error why) :
    decode (.frame bs) = .parse := by
  simp only [decode, h]

/-- Settles O33: the words of E8 and V-E6 are frame rows by their bytes, and V-D13's is a head with an unknown packet
id. -/
theorem specWordsDecode : Obligations.SpecWordsDecode := by
  have e8 := decode_frameBytes .ack 0xFFFFFFFF 3 [0x00, 0x00, 0x0A] rfl
  have ve6 := decode_frameBytes .dat 0x12345678 6 [0xDE, 0xAD, 0xBE, 0xEF, 0x03, 0x40] rfl
  have vd13 := decodeFrame_unknown_pid 0x05 0xFFFFFFFF 3 [0x00, 0x00, 0x08] rfl
  exact ⟨e8, ve6, vd13, decode_frame_of_error _ _ vd13⟩

end Sys2Proof
end
